-- ==== Sys2Proof/Word.lean ====
section
/-! DEFINITION. The machine's words: the 32-bit register word (R6, R10) and the 8-bit command word (R62). -/

namespace Sys2Proof

/-- A register word: an "opaque 32-bit unsigned word" (R6). -/
abbrev Word := BitVec 32

/-- A command word, `cmd_word[7:0]` (R16, R62). -/
abbrev Byte := BitVec 8

end Sys2Proof
end

