-- ==== Sys2Proof/Syntax.lean ====
section
/-! DEFINITION. The commands, one constructor for each row of spec/opcode_table.json (R63).
A command word is `OP[7:4]`, `ARG[3:0]` (R62); each constructor keeps every bit its row leaves open. -/

namespace Sys2Proof

/-- A command, by its opcode-table row. -/
inductive Instr where
  /-- NOP, words 0x00 to 0x0F; `ARG` is ignored (R64, R99). -/
  | nop (arg : BitVec 4)
  /-- INIT, words 0x10 to 0x1F; `ARG` is ignored (R65, R101). -/
  | init (arg : BitVec 4)
  /-- SETFREQ i, words 0x20 to 0x27; `i = ARG` in 0..7 (R66, R104). -/
  | setfreq (arg : BitVec 4)
  /-- SETFREQ.FC i, words 0x30 to 0x37; `i = ARG` in 0..7 (R67, R107). -/
  | setfreqFc (arg : BitVec 4)
  /-- CLRERR, words 0x40 to 0x4F; `ARG` is ignored (R68, R109). -/
  | clrerr (arg : BitVec 4)
  /-- SETFREQ with `ARG` 8..15, words 0x28 to 0x2F (R66, R119). -/
  | setfreqRefused (arg : BitVec 4)
  /-- SETFREQ.FC with `ARG` 8..15, words 0x38 to 0x3F (R67, R119). -/
  | setfreqFcRefused (arg : BitVec 4)
  /-- Reserved, `OP` 0x5, words 0x50 to 0x5F (R69, R118). -/
  | reserved5 (arg : BitVec 4)
  /-- Reserved, `OP` 0x6 and 0x7, words 0x60 to 0x7F (R69, R118). -/
  | reserved6to7 (op : BitVec 4) (arg : BitVec 4)
  /-- Reserved, `OP` 0x8 to 0xF, words 0x80 to 0xFF (R69, R118). -/
  | reserved8toF (op : BitVec 4) (arg : BitVec 4)
  deriving DecidableEq, Repr

end Sys2Proof
end

