-- ==== Sys2Proof/WellFormed.lean ====
section
/-! DEFINITION. Which terms of `Instr` are commands of their row: the operand ranges of R63, R66, R67, R69 and R70. -/

namespace Sys2Proof

/-- The operand checks of each row. A profile index is valid only if `ARG[3] = 0` (R70). -/
def Instr.wellFormed : Instr → Bool
  | .nop _ => true
  | .init _ => true
  | .setfreq arg => !arg.getLsbD 3
  | .setfreqFc arg => !arg.getLsbD 3
  | .clrerr _ => true
  | .setfreqRefused arg => arg.getLsbD 3
  | .setfreqFcRefused arg => arg.getLsbD 3
  | .reserved5 _ => true
  | .reserved6to7 op _ => op == 6#4 || op == 7#4
  | .reserved8toF op _ => op.getLsbD 3

/-- The checks as a proposition. -/
abbrev Instr.WellFormed (i : Instr) : Prop := i.wellFormed = true

end Sys2Proof
end

