-- ==== Sys2Proof/Decode.lean ====
section
/-! DEFINITION. From command words to commands and back (R62 to R72), total on any bytes. -/

namespace Sys2Proof

/-- `OP = cmd_word[7:4]` (R62). -/
def opField (w : Byte) : BitVec 4 := w.extractLsb' 4 4

/-- `ARG = cmd_word[3:0]` (R62). -/
def argField (w : Byte) : BitVec 4 := w.extractLsb' 0 4

/-- R63's opcode map. Every word is a command of exactly one row, so decoding a word never fails. -/
def decodeWord (w : Byte) : Instr :=
  let op := opField w
  let arg := argField w
  if op = 0x0#4 then .nop arg
  else if op = 0x1#4 then .init arg
  else if op = 0x2#4 then (if arg.getLsbD 3 then .setfreqRefused arg else .setfreq arg)
  else if op = 0x3#4 then (if arg.getLsbD 3 then .setfreqFcRefused arg else .setfreqFc arg)
  else if op = 0x4#4 then .clrerr arg
  else if op = 0x5#4 then .reserved5 arg
  else if op = 0x6#4 ∨ op = 0x7#4 then .reserved6to7 op arg
  else .reserved8toF op arg

/-- Why a list of bytes begins with no command. -/
inductive DecodeReject where
  /-- There is no byte: every command is one 8-bit word (R62, R72). -/
  | noWord
  deriving DecidableEq, Repr

/-- The first command of a list of bytes and the bytes after it: "A decoder knows the length of every command,
which is always 8 bits" (R72). -/
def decode : List Byte → Except DecodeReject (Instr × List Byte)
  | [] => .error .noWord
  | w :: rest => .ok (decodeWord w, rest)

/-- All commands of a program's bytes, in order. -/
def decodeProgram : List Byte → List Instr
  | [] => []
  | w :: rest => decodeWord w :: decodeProgram rest

/-! ### The encoder, from the tables of R63 to R69 -/

/-- `{OP, ARG}` (R62). -/
def commandWord (op arg : BitVec 4) : Byte := op ++ arg

/-- The word of a command (R64 to R69). -/
def encodeWord : Instr → Byte
  | .nop arg => commandWord 0x0#4 arg
  | .init arg => commandWord 0x1#4 arg
  | .setfreq arg => commandWord 0x2#4 arg
  | .setfreqFc arg => commandWord 0x3#4 arg
  | .clrerr arg => commandWord 0x4#4 arg
  | .setfreqRefused arg => commandWord 0x2#4 arg
  | .setfreqFcRefused arg => commandWord 0x3#4 arg
  | .reserved5 arg => commandWord 0x5#4 arg
  | .reserved6to7 op arg => commandWord op arg
  | .reserved8toF op arg => commandWord op arg

/-- The bytes of a command. -/
def encode (i : Instr) : List Byte := [encodeWord i]

/-- The bytes of a program. -/
def encodeProgram : List Instr → List Byte
  | [] => []
  | i :: is => encode i ++ encodeProgram is

/-! ### The opcode table as data -/

/-- One row of spec/opcode_table.json: a word is in the row when `word & mask = value`. -/
structure OpcodeRow where
  mask : Byte
  value : Byte
  deriving DecidableEq, Repr

/-- Whether a word is in a row. -/
def OpcodeRow.holds (r : OpcodeRow) (w : Byte) : Bool := w &&& r.mask == r.value

/-- The rows of spec/opcode_table.json, in its order. -/
def opcodeRows : List OpcodeRow :=
  [ ⟨0xF0#8, 0x00#8⟩, ⟨0xF0#8, 0x10#8⟩, ⟨0xF8#8, 0x20#8⟩, ⟨0xF8#8, 0x30#8⟩, ⟨0xF0#8, 0x40#8⟩,
    ⟨0xF8#8, 0x28#8⟩, ⟨0xF8#8, 0x38#8⟩, ⟨0xF0#8, 0x50#8⟩, ⟨0xE0#8, 0x60#8⟩, ⟨0x80#8, 0x80#8⟩ ]

/-- The row of a command, as its place in `opcodeRows`. -/
def Instr.rowIndex : Instr → Nat
  | .nop _ => 0
  | .init _ => 1
  | .setfreq _ => 2
  | .setfreqFc _ => 3
  | .clrerr _ => 4
  | .setfreqRefused _ => 5
  | .setfreqFcRefused _ => 6
  | .reserved5 _ => 7
  | .reserved6to7 _ _ => 8
  | .reserved8toF _ _ => 9

/-- The row of a command. -/
def Instr.row (i : Instr) : OpcodeRow := opcodeRows.getD i.rowIndex ⟨0, 0⟩

/-- The places of the rows a word is in. -/
def rowsOf (w : Byte) : List Nat :=
  (List.range opcodeRows.length).filter fun n => (opcodeRows.getD n ⟨0, 0⟩).holds w

/-! ### The host's table words -/

/-- The command word a table word of `nbits` bits stands for: its low `nbits` bits, every bit above them 0. -/
def tableByte (nbits w : Nat) : Byte := BitVec.ofNat 8 (w % 2 ^ nbits)

/-- What the decoder reads from a table word. A command is 8 bits, so a longer word is no command
(DESIGN CHOICE, log entry 15). -/
def decodeTableWord (nbits w : Nat) : Option Instr :=
  if nbits ≤ 8 then
    match decode [tableByte nbits w] with
    | .ok (i, _) => some i
    | .error _ => none
  else none

end Sys2Proof
end

