-- ==== Sys2Proof/Config.lean ====
section
/-! DEFINITION. What a build of the controller fixes (R6 to R9, R12, R13, R32, R46), and the values the spec leaves open. -/

namespace Sys2Proof.Config

/-- `T_LE_US`: latch-enable high time in every frame, in microseconds (R7). -/
def tLeUs : Nat := 3

/-- `T_CAL_US` (R7). -/
def tCalUs : Nat := 161

/-- `T_SETTLE_US` (R7). -/
def tSettleUs : Nat := 1

/-- The parameters the source leaves open (R8), as they are given to a build before it is checked.
The 8 × 13 table of words is R13's `PROFILE`. -/
structure Params where
  /-- `CYC_PER_US`, cycles of `clk` in a microsecond. -/
  cycPerUs : Nat
  /-- `SCLK_HALF`, cycles of `clk` in half a period of `spi_sclk`. -/
  sclkHalf : Nat
  /-- `T_FC_GAP_US`. -/
  tFcGapUs : Nat
  /-- `T_FC_TAIL_US`. -/
  tFcTailUs : Nat
  /-- `PROFILE`, row by row. -/
  profile : Vector (Vector Word 13) 8
  deriving DecidableEq, Repr

/-- R46 clause 1: "for every row `r` in 0..7 and every index `k` in 3..12, `PROFILE[r][k] = PROFILE[1][k]`". -/
abbrev Params.RowsAgree (p : Params) : Prop :=
  ∀ r : Fin 8, ∀ k : Fin 13, 3 ≤ k.val → p.profile[r][k] = p.profile[(1 : Fin 8)][k]

/-- The constraints of R8 and R46 clause 1 on a build's parameters.
R46 clause 2 is not among them: "A model may drop this clause to speak of other tables" (log entry 4). -/
abbrev Params.Legal (p : Params) : Prop :=
  1 ≤ p.cycPerUs ∧ 1 ≤ p.sclkHalf ∧ 1 ≤ p.tFcGapUs ∧ 1 ≤ p.tFcTailUs ∧ p.RowsAgree

/-- R46 clause 2, the one table word the source gives. -/
abbrev Params.HasSourceWord (p : Params) : Prop :=
  p.profile[(0 : Fin 8)][(0 : Fin 13)] = 0x00200320#32

/-- R47's address-field assumption, not checked by the controller: `PROFILE[r][k][3:0] = k`. -/
abbrev Params.AddressFields (p : Params) : Prop :=
  ∀ r : Fin 8, ∀ k : Fin 13, (p.profile[r][k]).extractLsb' 0 4 = BitVec.ofNat 4 k.val

/-- A build that was accepted: its parameters are legal, so no machine exists for an illegal one. -/
abbrev Build := { p : Params // p.Legal }

/-- Why a build is refused (R8, R46). -/
inductive BuildRefusal where
  /-- `CYC_PER_US` is 0 (R8). -/
  | cycPerUsZero
  /-- `SCLK_HALF` is 0 (R8). -/
  | sclkHalfZero
  /-- `T_FC_GAP_US` is 0 (R8). -/
  | fcGapZero
  /-- `T_FC_TAIL_US` is 0 (R8). -/
  | fcTailZero
  /-- The table breaks R46 clause 1. -/
  | profileRowsDiffer
  deriving DecidableEq, Repr

/-- Building the controller: "A table that breaks clause 1 is refused when the block is built; it is not a
run-time error" (R46), and a parameter below 1 is no legal value (R8). -/
def Build.make (p : Params) : Except BuildRefusal Build :=
  if h₁ : 1 ≤ p.cycPerUs then
    if h₂ : 1 ≤ p.sclkHalf then
      if h₃ : 1 ≤ p.tFcGapUs then
        if h₄ : 1 ≤ p.tFcTailUs then
          if h₅ : p.RowsAgree then .ok ⟨p, h₁, h₂, h₃, h₄, h₅⟩
          else .error .profileRowsDiffer
        else .error .fcTailZero
      else .error .fcGapZero
    else .error .sclkHalfZero
  else .error .cycPerUsZero

/-- The largest number of cycles any phase lasts (R32). -/
def Params.longestPhase (p : Params) : Nat :=
  max p.sclkHalf (max (tLeUs * p.cycPerUs) (max (tCalUs * p.cycPerUs) (max (tSettleUs * p.cycPerUs)
    (max (p.tFcGapUs * p.cycPerUs) (p.tFcTailUs * p.cycPerUs)))))

/-- `TMR_W`: the least width of at least one bit whose range holds the largest load of `TMR` (R32).
DESIGN CHOICE (log entry 12): R32 gives only the bound. -/
def Params.tmrW (p : Params) : Nat := Nat.log2 (p.longestPhase - 1) + 1

/-! ### Free values: constants with no body, so that no proof can see what they are -/

/-- The table words no source gives (R13: "Nothing may be assumed about the other 103 words"); log entry 5. -/
opaque profileWord : Nat → Nat → Word

/-- What synthesizer register `k` holds before anything was committed to it (R38's "unknown", R136, U12); log entry 8. -/
opaque chipPowerUp : Nat → Word

/-- What the synthesizer's serial shift register holds before its first clock (R38, R136); log entry 8. -/
opaque chipShiftPowerUp : Word

/-- Fresh free words, by number: what a synthesizer register holds after a latch pulse that reset cut short
(R138, U10); log entry 9. -/
opaque freeWord : Nat → Word

/-! ### The build of `State.reset` -/

/-- A table that meets both clauses of R46 and fixes nothing else. -/
def openProfile : Vector (Vector Word 13) 8 :=
  Vector.ofFn fun r : Fin 8 => Vector.ofFn fun k : Fin 13 =>
    if 3 ≤ k.val then profileWord 1 k.val
    else if r.val = 0 ∧ k.val = 0 then 0x00200320#32
    else profileWord r.val k.val

/-- R8's defaults over the open table. -/
def defaults : Params where
  cycPerUs := 10
  sclkHalf := 5 * 10
  tFcGapUs := 161
  tFcTailUs := 1
  profile := openProfile

theorem defaults_legal : defaults.Legal := by
  refine ⟨by decide, by decide, by decide, by decide, fun r k hk => ?_⟩
  simp [defaults, openProfile, hk]

/-- The build that `State.reset` carries (log entry 4). -/
def build : Build := ⟨defaults, defaults_legal⟩

end Sys2Proof.Config
end

