-- ==== Sys2Proof/Machine/State.lean ====
section
/-! DEFINITION. The controller's registers (R17), its input port (R16), the synthesizer's shadow (R38), the ways a
step can stop, and the state right after reset (R134). -/

namespace Sys2Proof.Machine

/-- The phases of the sequencer (R23). The register `PHASE` holds their 3-bit codes. -/
inductive Phase where
  | idle | fetch | setup | shi | slo | leh | wait
  deriving DecidableEq, Repr

/-- The sequences (R21). The register `SEQ` holds their 2-bit codes. -/
inductive Seq where
  | init | sf | fc
  deriving DecidableEq, Repr

/-- The error codes a refused command records (R116). The register `ERR` holds their 3-bit codes. -/
inductive ErrCode where
  /-- ERR_OPCODE (R118). -/
  | opcode
  /-- ERR_ARG (R119). -/
  | arg
  /-- ERR_STATE (R121). -/
  | state
  deriving DecidableEq, Repr

/-- How the multiplexer changes a table word (R48). -/
inductive Modifier where
  | none | clr21 | set4
  deriving DecidableEq, Repr

/-- One entry of a sequence (R92). -/
inductive MicroOp where
  /-- `WR(k, m)`: send `MuxWord(k, m)` as one frame. -/
  | wr (k : BitVec 4) (m : Modifier)
  /-- `WAIT(t)`: keep all pins still for `t` microseconds. -/
  | wait (t : Nat)
  /-- `END`: finish the sequence. -/
  | done
  deriving DecidableEq, Repr

/-- The levels of the input pins at one rising edge of `clk` (R16). -/
structure PortIn where
  rstN : Bool
  cmdValid : Bool
  cmdWord : Byte
  deriving DecidableEq, Repr

/-- What the host does with the input pins next (R15, R61; log entry 2). -/
inductive HostAct where
  /-- Drive these levels at exactly one rising edge of `clk`. -/
  | edge (p : PortIn)
  /-- Offer a command word, with `rst_n = 1`, at every edge until it is accepted: the blocking call of R61. -/
  | offer (w : Byte)
  deriving DecidableEq, Repr

/-- The shadow of the synthesizer (R38): what an ideal chip on the serial pins holds. -/
structure Synth where
  /-- The bits sampled on rising `spi_sclk` edges, the latest one in bit 0. -/
  shift : Word
  /-- `CHIP[0..12]`, the committed registers. -/
  regs : Vector Word 13
  deriving DecidableEq, Repr

/-- The whole machine: every register of R17 under its own name, then the model's surroundings of the controller. -/
structure State where
  /-- `STATE` (R18). -/
  state : BitVec 2
  /-- `PROF` (R19). -/
  prof : BitVec 3
  /-- `ROW` (R22). -/
  row : BitVec 3
  /-- `SEQ` (R21). -/
  seq : BitVec 2
  /-- `UPC` (R20). -/
  upc : BitVec 4
  /-- `PHASE` (R23). -/
  phase : BitVec 3
  /-- `NBITS` (R24). -/
  nbits : BitVec 6
  /-- `TMR` (R32), the value of a down-counter of `TMR_W` bits; log entry 12. -/
  tmr : Nat
  /-- `SHREG` (R25). -/
  shreg : Word
  /-- `SCLK` (R26). -/
  sclk : Bool
  /-- `LE` (R26). -/
  le : Bool
  /-- `ERR` (R27). -/
  err : BitVec 3
  /-- `MULTI` (R27). -/
  multi : Bool
  /-- What the host does at the coming edges, next first; when it is empty the host holds `rst_n = 1` and
  `cmd_valid = 0` (the model's own field; log entry 2). -/
  host : List HostAct
  /-- The synthesizer's shadow (R38; log entry 6). -/
  synth : Synth
  /-- The build's parameters, which no step changes (the model's own field; log entry 4). -/
  build : Config.Build
  /-- How many free words were used (the model's own field; log entry 9). -/
  freeCount : Nat
  deriving DecidableEq, Repr

/-- Where the machine stops with a fault. Every case is one the spec calls unreachable and lets a model fault on
(R37, R53, 93 U8), but for the last; log entry 10. -/
inductive Fault where
  /-- Raised by `step` when `PHASE = 7`. Safe: R37 says that no reachable state has it. -/
  | unreachablePhase
  /-- Raised by the FETCH step when `SEQ = 3`, which has no list (R60), or `UPC` is past the list's `END` (R93).
  Safe: R93 says that such an entry is never fetched. -/
  | noMicroOp
  /-- Raised by SHI when `NBITS` is 0 and by LEH and WAIT when `UPC` is 15. Safe: "A model should treat a wrap as
  unreachable and may fault on it" (R53). -/
  | counterWrap
  /-- Raised by `busStep` when two controllers on one serial bus are BUSY at once. Safe: "A model should treat that
  as a fault" (R129). -/
  | busConflict
  deriving DecidableEq, Repr

/-- Where the model has no meaning for an instruction. -/
inductive Refusal where
  /-- Raised only by an arm of `exec` that has no meaning yet. Safe. -/
  | notModelled (mnemonic : String)
  deriving DecidableEq, Repr

/-- The synthesizer at power-up: free values (R136, U12; log entry 8). -/
def Synth.powerUp : Synth where
  shift := Config.chipShiftPowerUp
  regs := Vector.ofFn fun k : Fin 13 => Config.chipPowerUp k.val

/-- The machine right after reset: every register of R17 at its value of R134, no host act pending. -/
def State.reset : State where
  state := 0#2
  prof := 0#3
  row := 0#3
  seq := 0#2
  upc := 0#4
  phase := 0#3
  nbits := 0#6
  tmr := 0
  shreg := 0#32
  sclk := false
  le := false
  err := 0#3
  multi := false
  host := []
  synth := Synth.powerUp
  build := Config.build
  freeCount := 0

end Sys2Proof.Machine
end

