-- ==== Sys2Proof/Machine/Operands.lean ====
section
/-! DEFINITION. Operands and codes: the register codes of phases, sequences and states (R18, R21, R23), the profile
index (R70), the profile table and its multiplexer (R45, R48 to R51), the sequence lists (R93) and byte order (R40, R41). -/

namespace Sys2Proof.Machine

/-! ### Register codes -/

/-- `UNINIT` (R18). -/
def uninit : BitVec 2 := 0b00#2
/-- `INITIALIZED` (R18). -/
def initialized : BitVec 2 := 0b01#2
/-- `TUNED` (R18). -/
def tuned : BitVec 2 := 0b10#2

/-- The code of a phase (R23). -/
def Phase.bits : Phase → BitVec 3
  | .idle => 0#3
  | .fetch => 1#3
  | .setup => 2#3
  | .shi => 3#3
  | .slo => 4#3
  | .leh => 5#3
  | .wait => 6#3

/-- The phase a code stands for; 7 is no phase (R17). -/
def Phase.ofBits (b : BitVec 3) : Option Phase :=
  if b = 0#3 then some .idle
  else if b = 1#3 then some .fetch
  else if b = 2#3 then some .setup
  else if b = 3#3 then some .shi
  else if b = 4#3 then some .slo
  else if b = 5#3 then some .leh
  else if b = 6#3 then some .wait
  else none

/-- The code of a sequence (R21). -/
def Seq.bits : Seq → BitVec 2
  | .init => 0#2
  | .sf => 1#2
  | .fc => 2#2

/-- The sequence a code stands for; 3 has no list (R60). -/
def Seq.ofBits (b : BitVec 2) : Option Seq :=
  if b = 0#2 then some .init
  else if b = 1#2 then some .sf
  else if b = 2#2 then some .fc
  else none

/-! ### The profile index -/

/-- `ARG[3] = 1`: the index is outside 0..7 (R70). -/
def badIndex (arg : BitVec 4) : Bool := arg.getLsbD 3

/-- The row of a valid index: `ARG[2:0]` (R70). -/
def indexRow (arg : BitVec 4) : BitVec 3 := arg.extractLsb' 0 3

/-! ### The profile table and the word multiplexer -/

/-- The table read at the 7-bit address `{r, k}` (R45): "Addresses with `k` in 13..15 hold no word and read as 0". -/
def profileRead (p : Config.Params) (r : BitVec 3) (k : BitVec 4) : Word :=
  if h : k.toNat < 13 then (p.profile[r.toFin])[k.toNat] else 0#32

/-- CLR21: clear bit 21 and keep every other bit (R50). -/
def clr21 (w : Word) : Word := w &&& 0xFFDFFFFF#32

/-- SET4: set bit 4 and keep every other bit (R51). -/
def set4 (w : Word) : Word := w ||| 0x00000010#32

/-- `Mod(m, w)` (R48). -/
def modWord : Modifier → Word → Word
  | .none, w => w
  | .clr21, w => clr21 w
  | .set4, w => set4 w

/-- `MuxWord(k, m)` with `ROW = r` (R48). -/
def muxWord (p : Config.Params) (r : BitVec 3) (k : BitVec 4) (m : Modifier) : Word :=
  modWord m (profileRead p r k)

/-! ### The sequence lists -/

/-- `List[SEQ]` (R93). -/
def microOps (p : Config.Params) : Seq → List MicroOp
  | .init =>
    [ .wr 12 .none, .wr 11 .none, .wr 10 .none, .wr 9 .none, .wr 8 .none, .wr 7 .none, .wr 6 .none,
      .wr 5 .none, .wr 4 .none, .wr 3 .none, .wr 2 .none, .wr 1 .none, .wait Config.tCalUs,
      .wr 0 .none, .wait Config.tSettleUs, .done ]
  | .sf => [ .wr 2 .none, .wr 1 .none, .wr 0 .clr21, .wait Config.tCalUs, .done ]
  | .fc =>
    [ .wr 10 .none, .wr 4 .set4, .wr 2 .none, .wr 1 .none, .wr 0 .clr21, .wr 4 .none,
      .wait p.tFcGapUs, .wr 0 .none, .wait p.tFcTailUs, .done ]

/-- `List[SEQ][UPC]`; none where R93 has no entry. -/
def microOpAt (p : Config.Params) (seq : BitVec 2) (upc : BitVec 4) : Option MicroOp :=
  match Seq.ofBits seq with
  | some q => (microOps p q)[upc.toNat]?
  | none => none

/-! ### Byte and bit order -/

/-- Byte `i` of a word on the wire: `(value >> (8*(3-i))) & 0xFF` (R40). -/
def wireByte (w : Word) (i : Nat) : Byte := ((w >>> (8 * (3 - i))) &&& 0xFF#32).truncate 8

/-- The data bits of a frame in time order: the `j`-th is `w[31 − j]` (R41). -/
def wireBits (w : Word) : List Bool := (List.range 32).map fun j => w.getLsbD (31 - j)

end Sys2Proof.Machine
end

