-- ==== Sys2Proof/Machine/Flags.lean ====
section
/-! DEFINITION. The status word and the outputs that are functions of the registers (R28 to R31), and the error codes (R116). -/

namespace Sys2Proof.Machine

/-- The code of an error in `ERR` (R116). -/
def ErrCode.bits : ErrCode → BitVec 3
  | .opcode => 1#3
  | .arg => 2#3
  | .state => 3#3

/-- `BUSY = (PHASE ≠ IDLE)` (R28). -/
def State.busy (s : State) : Bool := s.phase != Phase.idle.bits

/-- `cmd_ready = (PHASE = IDLE)` (R28). -/
def State.cmdReady (s : State) : Bool := s.phase == Phase.idle.bits

/-- `status = {4'b0000, MULTI, ERR[2:0], 2'b00, (PHASE != IDLE), PROF[2:0], STATE[1:0]}` (R30). -/
def State.status (s : State) : BitVec 16 :=
  0b0000#4 ++ BitVec.ofBool s.multi ++ s.err ++ 0b00#2 ++ BitVec.ofBool s.busy ++ s.prof ++ s.state

/-- `spi_mosi = SHREG[31]` (R31). -/
def State.mosi (s : State) : Bool := s.shreg.getLsbD 31

/-- The serial output pins. -/
structure Pins where
  sclk : Bool
  mosi : Bool
  le : Bool
  deriving DecidableEq, Repr

/-- `spi_sclk = SCLK`, `spi_mosi = SHREG[31]`, `spi_le = LE` (R31). -/
def State.pins (s : State) : Pins := ⟨s.sclk, s.mosi, s.le⟩

end Sys2Proof.Machine
end

