-- ==== Sys2Proof/Machine/Ops.lean ====
section
/-! DEFINITION. The named operations on the state: the input port (R61), the serial pins and the synthesizer's shadow
(R38, R77, R84), the sequencer's moves (R79, R80, R90, R94, R95), raising an error and clearing it (R109, R117), and the reset edge (R133). -/

namespace Sys2Proof.Machine

abbrev Result := Host.Outcome State Fault Refusal

/-- The build's parameters. -/
def State.params (s : State) : Config.Params := s.build.val

/-! ### The input port -/

/-- The input levels at an edge when the host does nothing more (log entry 2). -/
def PortIn.quiet : PortIn := ⟨true, false, 0#8⟩

/-- The input levels at the coming edge. -/
def State.portIn (s : State) : PortIn :=
  match s.host with
  | [] => .quiet
  | .edge p :: _ => p
  | .offer w :: _ => ⟨true, true, w⟩

/-- The host's acts after an edge: levels driven for one edge are over; an offered word "is not taken and not lost"
until it is accepted (R61). -/
def hostAfter (accepted : Bool) : List HostAct → List HostAct
  | [] => []
  | .edge _ :: rest => rest
  | .offer w :: rest => if accepted then rest else .offer w :: rest

/-- The state whose host acts are those after the coming edge. -/
def State.passEdge (s : State) (accepted : Bool) : State := { s with host := hostAfter accepted s.host }

/-! ### The synthesizer's shadow -/

/-- A rising edge of `spi_sclk`: the synthesizer takes `spi_mosi` (R38, R77). -/
def Synth.sample (y : Synth) (mosi : Bool) : Synth :=
  { y with shift := (y.shift <<< 1) ||| (BitVec.ofBool mosi).zeroExtend 32 }

/-- The address field of a word, `w[3:0]` (R38). -/
def addressField (w : Word) : Nat := (w.extractLsb' 0 4).toNat

/-- `CHIP[k] <- w`; an address that names none of the 13 registers changes nothing (log entry 7). -/
def Synth.write (y : Synth) (k : Nat) (w : Word) : Synth := { y with regs := y.regs.setIfInBounds k w }

/-- A rising edge of `spi_le`: the last 32 bits sampled are committed (R38, R84). -/
def Synth.commit (y : Synth) : Synth := y.write (addressField y.shift) y.shift

/-! ### The serial pins -/

/-- Drive `spi_sclk`. The synthesizer sees its rising edge. -/
def State.driveSclk (s : State) (level : Bool) : State :=
  { s with sclk := level, synth := if level && !s.sclk then s.synth.sample s.mosi else s.synth }

/-- Drive `spi_le`. The synthesizer sees its rising edge. -/
def State.driveLe (s : State) (level : Bool) : State :=
  { s with le := level, synth := if level && !s.le then s.synth.commit else s.synth }

/-! ### The sequencer's moves -/

/-- `start(s, r)` (R90): `SEQ <- s; ROW <- r; UPC <- 0; PHASE <- FETCH`. -/
def State.start (s : State) (q : Seq) (r : BitVec 3) : State :=
  { s with seq := q.bits, row := r, upc := 0#4, phase := Phase.fetch.bits }

/-- A phase of `n` cycles begins: `TMR <- n − 1` (R32). -/
def State.enter (s : State) (ph : Phase) (n : Nat) : State := { s with phase := ph.bits, tmr := n - 1 }

/-- A cycle of a phase that goes on: `TMR <- TMR − 1` (R32). -/
def State.tick (s : State) : State := { s with tmr := s.tmr - 1 }

/-- The register part of a `WR`'s FETCH cycle (R79): load `SHREG` and `NBITS`. -/
def State.loadFrame (s : State) (w : Word) : State := { s with shreg := w, nbits := 32#6 }

/-- The falling `spi_sclk` edge's data part (R80): shift `SHREG` left, zero in, and count the bit. -/
def State.shiftOut (s : State) : State := { s with shreg := s.shreg <<< 1, nbits := s.nbits - 1 }

/-- `UPC <- UPC + 1; PHASE <- FETCH` (R80, R94). -/
def State.nextMicroOp (s : State) : State := { s with upc := s.upc + 1, phase := Phase.fetch.bits }

/-- The end of a micro-op. A wrap of `UPC` is a fault of the model (R53; log entry 10). -/
def endMicroOp (s : State) : Result :=
  if s.upc = 15#4 then .fault .counterWrap else .next s.nextMicroOp

/-- `commit()` and `PHASE <- IDLE` at `END` (R94, R95). -/
def State.commit (s : State) : State :=
  if s.seq = Seq.init.bits then
    { s with state := initialized, prof := 0#3, phase := Phase.idle.bits }
  else { s with state := tuned, prof := s.row, phase := Phase.idle.bits }

/-! ### Errors -/

/-- `raise E(c)` (R117): the one way the machine takes an error. It saves nothing else, changes no mode and goes
nowhere (R124). -/
def State.raiseError (s : State) (c : ErrCode) : State :=
  if s.err = 0#3 then { s with err := c.bits } else { s with multi := true }

/-- `ERR <- 0; MULTI <- 0` (R109): the only way back from an error short of reset (R125). -/
def State.clearErrors (s : State) : State := { s with err := 0#3, multi := false }

/-! ### Reset -/

/-- Every register of R17 takes its reset value (R133, R134). -/
def State.resetRegisters (s : State) : State :=
  { s with
    state := 0#2, prof := 0#3, row := 0#3, seq := 0#2, upc := 0#4, phase := 0#3, nbits := 0#6, tmr := 0
    shreg := 0#32, sclk := false, le := false, err := 0#3, multi := false }

/-- What reset does to the synthesizer (R136, R138): nothing, but where it cuts a latch-enable pulse short "a model
must treat the synthesizer register being committed as holding any value" (log entry 9). -/
def State.cutLatchPulse (s : State) : State :=
  if s.le then
    { s with
      synth := s.synth.write (addressField s.synth.shift) (Config.freeWord s.freeCount)
      freeCount := s.freeCount + 1 }
  else s

/-- A rising edge of `clk` with `rst_n = 0` (R133, R137, R138). -/
def resetEdge (s : State) : Result := .next (s.cutLatchPulse.resetRegisters.passEdge false)

end Sys2Proof.Machine
end

