-- ==== Sys2Proof/Machine/Commands.lean ====
section
/-! DEFINITION. The meaning of each command in the cycle that accepts it (R90, R99 to R109, R118, R119). The sequence a
command starts runs in the cycles after it (Machine/Frame.lean, Machine/Sequencer.lean). -/

namespace Sys2Proof.Machine

/-- SETFREQ and SETFREQ.FC (R90): the argument is checked first, then the state (R120). -/
def startSwitch (q : Seq) (arg : BitVec 4) (s : State) : State :=
  if badIndex arg then s.raiseError .arg
  else if s.state = uninit then s.raiseError .state
  else s.start q (indexRow arg)

/-- NOP (R99): "No register changes". -/
def execNop (_arg : BitVec 4) (s : State) : Result := .next s

/-- INIT (R101): ERR_STATE unless `STATE = UNINIT`; the row is always 1, whatever `ARG` is. -/
def execInit (_arg : BitVec 4) (s : State) : Result :=
  if s.state = uninit then .next (s.start .init 1#3) else .next (s.raiseError .state)

/-- SETFREQ i (R104). -/
def execSetfreq (arg : BitVec 4) (s : State) : Result := .next (startSwitch .sf arg s)

/-- SETFREQ.FC i (R107). -/
def execSetfreqFc (arg : BitVec 4) (s : State) : Result := .next (startSwitch .fc arg s)

/-- CLRERR (R109). -/
def execClrerr (_arg : BitVec 4) (s : State) : Result := .next s.clearErrors

/-- SETFREQ with `ARG` 8..15 (R119): ERR_ARG in every `STATE`. -/
def execSetfreqRefused (_arg : BitVec 4) (s : State) : Result := .next (s.raiseError .arg)

/-- SETFREQ.FC with `ARG` 8..15 (R119): ERR_ARG in every `STATE`. -/
def execSetfreqFcRefused (_arg : BitVec 4) (s : State) : Result := .next (s.raiseError .arg)

/-- `OP` 0x5 (R118): ERR_OPCODE, whatever `ARG` and `STATE` are. -/
def execReserved5 (_arg : BitVec 4) (s : State) : Result := .next (s.raiseError .opcode)

/-- `OP` 0x6 and 0x7 (R118): ERR_OPCODE. -/
def execReserved6to7 (_op _arg : BitVec 4) (s : State) : Result := .next (s.raiseError .opcode)

/-- `OP` 0x8 to 0xF (R118): ERR_OPCODE. -/
def execReserved8toF (_op _arg : BitVec 4) (s : State) : Result := .next (s.raiseError .opcode)

end Sys2Proof.Machine
end

