-- ==== Sys2Proof/Machine/Dispatch.lean ====
section
/-! DEFINITION. The accept step's case of the command (R90), one arm for each row of spec/opcode_table.json. -/

namespace Sys2Proof.Machine

/-- What accepting a command does to the state. `step` applies it only at an edge with `PHASE = IDLE`, `rst_n = 1` and
`cmd_valid = 1` (R61). -/
def exec (i : Instr) (s : State) : Host.Outcome State Fault Refusal :=
  match i with
  | .nop arg => Sys2Proof.Machine.execNop arg s
  | .init arg => Sys2Proof.Machine.execInit arg s
  | .setfreq arg => Sys2Proof.Machine.execSetfreq arg s
  | .setfreqFc arg => Sys2Proof.Machine.execSetfreqFc arg s
  | .clrerr arg => Sys2Proof.Machine.execClrerr arg s
  | .setfreqRefused arg => Sys2Proof.Machine.execSetfreqRefused arg s
  | .setfreqFcRefused arg => Sys2Proof.Machine.execSetfreqFcRefused arg s
  | .reserved5 arg => Sys2Proof.Machine.execReserved5 arg s
  | .reserved6to7 op arg => Sys2Proof.Machine.execReserved6to7 op arg s
  | .reserved8toF op arg => Sys2Proof.Machine.execReserved8toF op arg s

end Sys2Proof.Machine
end

