-- ==== Sys2Proof/Machine/Frame.lean ====
section
/-! DEFINITION. The register write: the `WR` micro-op's FETCH cycle (R79) and the four frame phases (R80). -/

namespace Sys2Proof.Machine

/-- The FETCH cycle of `WR(k, m)` (R79). -/
def fetchWr (k : BitVec 4) (m : Modifier) (s : State) : Result :=
  .next ((s.loadFrame (muxWord s.params s.row k m)).enter .setup s.params.sclkHalf)

/-- SETUP (R80). -/
def runSetup (s : State) : Result :=
  if s.tmr = 0 then .next ((s.driveSclk true).enter .shi s.params.sclkHalf) else .next s.tick

/-- SHI (R80). A wrap of `NBITS` is a fault of the model (R53; log entry 10). -/
def runShi (s : State) : Result :=
  if s.tmr = 0 then
    if s.nbits = 0#6 then .fault .counterWrap
    else .next ((s.driveSclk false).shiftOut.enter .slo s.params.sclkHalf)
  else .next s.tick

/-- SLO (R80): the next bit, or the latch-enable pulse of `T_LE_US` after the last one. -/
def runSlo (s : State) : Result :=
  if s.tmr = 0 then
    if s.nbits = 0#6 then .next ((s.driveLe true).enter .leh (Config.tLeUs * s.params.cycPerUs))
    else .next ((s.driveSclk true).enter .shi s.params.sclkHalf)
  else .next s.tick

/-- LEH (R80). -/
def runLeh (s : State) : Result :=
  if s.tmr = 0 then endMicroOp (s.driveLe false) else .next s.tick

end Sys2Proof.Machine
end

