-- ==== Sys2Proof/Machine/Sequencer.lean ====
section
/-! DEFINITION. The sequencer: the FETCH and WAIT steps and `END` (R94, R95), one cycle of a running sequence,
and how far its frame has come. -/

namespace Sys2Proof.Machine

/-- The FETCH cycle of `WAIT(t)` (R94): `TMR <- t * CYC_PER_US - 1; PHASE <- WAIT`. -/
def fetchWait (t : Nat) (s : State) : Result := .next (s.enter .wait (t * s.params.cycPerUs))

/-- FETCH (R94): the micro-op at `UPC`. An entry R93 does not have is never fetched; here it is a fault (log entry 10). -/
def runFetch (s : State) : Result :=
  match microOpAt s.params s.seq s.upc with
  | some (.wr k m) => fetchWr k m s
  | some (.wait t) => fetchWait t s
  | some .done => .next s.commit
  | none => .fault .noMicroOp

/-- WAIT (R94). -/
def runWait (s : State) : Result :=
  if s.tmr = 0 then endMicroOp s else .next s.tick

/-- One cycle of a phase. In IDLE no sequence runs and no register changes (R90). -/
def phaseCycle : Phase → State → Result
  | .idle, s => .next s
  | .fetch, s => runFetch s
  | .setup, s => runSetup s
  | .shi, s => runShi s
  | .slo, s => runSlo s
  | .leh, s => runLeh s
  | .wait, s => runWait s

/-- One cycle of a running sequence, by `PHASE`; `PHASE = 7` is a fault of the model (log entry 10). -/
def runPhase (s : State) : Result :=
  match Phase.ofBits s.phase with
  | some ph => phaseCycle ph s
  | none => .fault .unreachablePhase

/-! ### Where a running sequence stands -/

/-- The micro-op at `UPC` (R93). -/
def State.microOp (s : State) : Option MicroOp := microOpAt s.params s.seq s.upc

/-- A phase in which a frame is being sent (R79, R80). -/
def State.inFrame (s : State) : Bool :=
  s.phase == Phase.setup.bits || s.phase == Phase.shi.bits || s.phase == Phase.slo.bits || s.phase == Phase.leh.bits

/-- The word the running `WR` micro-op sends; 0 where none is running. -/
def State.frameWord (s : State) : Word :=
  match s.microOp with
  | some (.wr k m) => muxWord s.params s.row k m
  | _ => 0#32

/-- How many data bits of the running frame have had their rising `spi_sclk` edge (R24): in SHI the present bit too. -/
def State.bitsClocked (s : State) : Nat :=
  if s.phase = Phase.shi.bits then 33 - s.nbits.toNat else 32 - s.nbits.toNat

end Sys2Proof.Machine
end

