-- ==== Sys2Proof/Machine/Step.lean ====
section
/-! DEFINITION. One rising edge of `clk` (R15, R16): reset first (R133), then the accept step (R90), then the running sequence. -/

namespace Sys2Proof.Machine

/-- One rising edge of `clk`. -/
def step (s : State) : Host.Outcome State Fault Refusal :=
  if s.portIn.rstN = false then resetEdge s
  else if s.cmdReady && s.portIn.cmdValid then exec (decodeWord s.portIn.cmdWord) (s.passEdge true)
  else runPhase (s.passEdge false)

/-- The state whose next edge accepts the command of a table word: the sequencer is idle, where alone a command is
accepted (R61), and the host offers the word first (log entry 3). -/
def State.withFetchWord (s : State) (nbits w : Nat) : State :=
  { s with phase := Phase.idle.bits, host := .offer (tableByte nbits w) :: s.host }

end Sys2Proof.Machine
end

