-- ==== Sys2Proof/Machine/Asm.lean ====
section
/-! DEFINITION. The command syntax of R73: lines of text to command words. It is no part of the hardware. -/

namespace Sys2Proof.Machine

/-- A line of a program (R73). -/
inductive AsmLine where
  | nop
  | init
  | setfreq (i : Nat)
  | setfreqFc (i : Nat)
  | clrerr
  /-- `.word <byte>`. -/
  | word (b : Nat)
  deriving DecidableEq, Repr

/-- Why a line is refused. -/
inductive AsmReject where
  /-- No line of R73. -/
  | unknownLine
  /-- Not a decimal or `0x` hexadecimal number. -/
  | badNumber
  /-- "An `<i>` above 15 does not fit the field, and the assembler refuses it" (R73). -/
  | indexTooLarge
  /-- A `.word` above 255 is no 8-bit word (DESIGN CHOICE, log entry 17). -/
  | wordTooLarge
  deriving DecidableEq, Repr

/-- The word of a line (R73): "An assembler writes 0 in the `ARG` field of NOP, INIT and CLRERR". -/
def assemble : AsmLine → Except AsmReject Byte
  | .nop => .ok 0x00#8
  | .init => .ok 0x10#8
  | .setfreq i => if i ≤ 15 then .ok (0x20#8 ||| BitVec.ofNat 8 i) else .error .indexTooLarge
  | .setfreqFc i => if i ≤ 15 then .ok (0x30#8 ||| BitVec.ofNat 8 i) else .error .indexTooLarge
  | .clrerr => .ok 0x40#8
  | .word b => if b ≤ 255 then .ok (BitVec.ofNat 8 b) else .error .wordTooLarge

/-! ### Reading text -/

/-- "The syntax is case-insensitive" (R73). -/
def lowerChar (c : Char) : Char := if 65 ≤ c.toNat ∧ c.toNat ≤ 90 then Char.ofNat (c.toNat + 32) else c

/-- A line up to its comment, which begins at `;`. -/
def dropComment : List Char → List Char
  | [] => []
  | c :: cs => if c = ';' then [] else c :: dropComment cs

/-- The words of a line: what blanks and tabs separate. `acc` is the word being read, backwards. -/
def lineWords (acc : List Char) : List Char → List (List Char)
  | [] => if acc.isEmpty then [] else [acc.reverse]
  | c :: cs =>
    if c = ' ' ∨ c = '\t' then
      if acc.isEmpty then lineWords [] cs else acc.reverse :: lineWords [] cs
    else lineWords (c :: acc) cs

/-- The value of a digit in a base up to 16. -/
def digitValue (base : Nat) (c : Char) : Option Nat :=
  let v := if 48 ≤ c.toNat ∧ c.toNat ≤ 57 then c.toNat - 48
    else if 97 ≤ c.toNat ∧ c.toNat ≤ 102 then c.toNat - 87 else base
  if v < base then some v else none

/-- The value of digits, after a value already read. -/
def digitsValue (base : Nat) (acc : Nat) : List Char → Option Nat
  | [] => some acc
  | c :: cs =>
    match digitValue base c with
    | some v => digitsValue base (acc * base + v) cs
    | none => none

/-- "Numbers are decimal or `0x` hexadecimal" (R73). -/
def numberValue : List Char → Option Nat
  | [] => none
  | '0' :: 'x' :: d :: ds => digitsValue 16 0 (d :: ds)
  | d :: ds => digitsValue 10 0 (d :: ds)

/-- A line with one number. -/
def withNumber (f : Nat → AsmLine) (w : List Char) : Except AsmReject (Option AsmLine) :=
  match numberValue w with
  | some n => .ok (some (f n))
  | none => .error .badNumber

/-- A line's words as a line of R73; an empty line is none. -/
def readWords : List (List Char) → Except AsmReject (Option AsmLine)
  | [] => .ok none
  | [m] =>
    if m = ['n', 'o', 'p'] then .ok (some .nop)
    else if m = ['i', 'n', 'i', 't'] then .ok (some .init)
    else if m = ['c', 'l', 'r', 'e', 'r', 'r'] then .ok (some .clrerr)
    else .error .unknownLine
  | [m, a] =>
    if m = ['s', 'e', 't', 'f', 'r', 'e', 'q'] then withNumber .setfreq a
    else if m = ['s', 'e', 't', 'f', 'r', 'e', 'q', '.', 'f', 'c'] then withNumber .setfreqFc a
    else if m = ['.', 'w', 'o', 'r', 'd'] then withNumber .word a
    else .error .unknownLine
  | _ => .error .unknownLine

/-- A line of text as a line of R73. -/
def readLine (text : List Char) : Except AsmReject (Option AsmLine) :=
  readWords (lineWords [] ((dropComment text).map lowerChar))

/-- The bytes of a program's lines of text. -/
def assembleText : List (List Char) → Except AsmReject (List Byte)
  | [] => .ok []
  | line :: rest =>
    match readLine line with
    | .error e => .error e
    | .ok none => assembleText rest
    | .ok (some l) =>
      match assemble l, assembleText rest with
      | .ok b, .ok bs => .ok (b :: bs)
      | .error e, _ => .error e
      | _, .error e => .error e

end Sys2Proof.Machine
end

