-- ==== Sys2Proof/Machine/Bus.lean ====
section
/-! DEFINITION. Several controllers on one serial bus (R129): each with its own `spi_le` and its own synthesizer, all on
one `spi_sclk` and `spi_mosi` pair and one `clk` (log entry 16). -/

namespace Sys2Proof.Machine

/-- One edge of every controller; the first one that stops decides. -/
def stepAll : List State → Host.Outcome (List State) Fault Refusal
  | [] => .next []
  | s :: ss =>
    match step s with
    | .next t =>
      match stepAll ss with
      | .next ts => .next (t :: ts)
      | .fault f => .fault f
      | .refused r => .refused r
    | .fault f => .fault f
    | .refused r => .refused r

/-- Whether `spi_sclk` rises between two states. -/
def sclkRises (before after : State) : Bool := !before.sclk && after.sclk

/-- The synthesizers of the controllers that did not drive the shared clock see its rising edge too. -/
def overhear (level : Bool) (before after : State) : State :=
  if sclkRises before after then after else { after with synth := after.synth.sample level }

/-- One edge of a shared bus. "Two controllers running at once on one shared bus produce a wired conflict this spec
gives no meaning to. A model should treat that as a fault" (R129). -/
def busStep (ss : List State) : Host.Outcome (List State) Fault Refusal :=
  if 2 ≤ (ss.filter State.busy).length then .fault .busConflict
  else
    match stepAll ss with
    | .next ts =>
      match (ss.zip ts).find? fun st => sclkRises st.1 st.2 with
      | some (_, t) => .next (List.zipWith (overhear t.mosi) ss ts)
      | none => .next ts
    | .fault f => .fault f
    | .refused r => .refused r

end Sys2Proof.Machine
end

