-- ==== Sys2Proof/Machine/Observe.lean ====
section
/-! DEFINITION. What is observed of the machine: the trace of a command (R97), its duration (R96) and its effect on the
status fields (R110, R120) as the rules write them; the end of a run and its observation (R149); and a monitor that
reads frames and gaps off the serial pins (R76). -/

namespace Sys2Proof.Machine

/-! ### The trace and the duration of a command, as the rules write them -/

/-- An item of a trace (R97): `F(w)` or `G(t)`; and what a reset leaves of a frame, which is no item of a command's trace
(R138; log entry 21). -/
inductive TraceItem where
  /-- `F(w)`: a frame that carries `w`. -/
  | frame (w : Word)
  /-- `G(t)`: the pins are still for at least `t` microseconds. -/
  | gap (t : Nat)
  /-- The clock pulses of a frame that reset cut short, by their bits, and whether `spi_le` had risen: "10 stray clock
  pulses with no `spi_le` pulse" (95 P4). -/
  | cut (bits : List Bool) (latched : Bool)
  deriving DecidableEq, Repr

/-- Which sequence a command word starts, and with which row, by the table of R110; none where it starts none. -/
def startsSequence (w : Byte) (st : BitVec 2) : Option (Seq × BitVec 3) :=
  if opField w = 1#4 ∧ st = uninit then some (.init, 1#3)
  else if opField w = 2#4 ∧ badIndex (argField w) = false ∧ st ≠ uninit then some (.sf, indexRow (argField w))
  else if opField w = 3#4 ∧ badIndex (argField w) = false ∧ st ≠ uninit then some (.fc, indexRow (argField w))
  else none

/-- `b21 = 0x00200000` (R97). -/
def b21 : Word := 0x00200000#32

/-- `b4 = 0x00000010` (R97). -/
def b4 : Word := 0x00000010#32

/-- `Trace` of a sequence over row `r` (R97); INIT runs it with row 1. -/
def sequenceTrace (p : Config.Params) (r : BitVec 3) : Seq → List TraceItem
  | .init =>
    [ .frame (profileRead p r 12), .frame (profileRead p r 11), .frame (profileRead p r 10),
      .frame (profileRead p r 9), .frame (profileRead p r 8), .frame (profileRead p r 7),
      .frame (profileRead p r 6), .frame (profileRead p r 5), .frame (profileRead p r 4),
      .frame (profileRead p r 3), .frame (profileRead p r 2), .frame (profileRead p r 1),
      .gap 161, .frame (profileRead p r 0), .gap 1 ]
  | .sf =>
    [ .frame (profileRead p r 2), .frame (profileRead p r 1), .frame (profileRead p r 0 &&& ~~~b21), .gap 161 ]
  | .fc =>
    [ .frame (profileRead p r 10), .frame (profileRead p r 4 ||| b4), .frame (profileRead p r 2),
      .frame (profileRead p r 1), .frame (profileRead p r 0 &&& ~~~b21), .frame (profileRead p r 4),
      .gap p.tFcGapUs, .frame (profileRead p r 0), .gap p.tFcTailUs ]

/-- The trace of a command word in a state: "Trace(any refused command) = empty" (R97). -/
def commandTrace (p : Config.Params) (w : Byte) (st : BitVec 2) : List TraceItem :=
  match startsSequence w st with
  | some (q, r) => sequenceTrace p r q
  | none => []

/-- The words of a trace's frames, in order. -/
def frameWords : List TraceItem → List Word
  | [] => []
  | .frame w :: rest => w :: frameWords rest
  | .gap _ :: rest => frameWords rest
  | .cut _ _ :: rest => frameWords rest

/-- `1 + 65H + L`: the cycles of a `WR` micro-op (R81). -/
def wrCycles (p : Config.Params) : Nat := 1 + 65 * p.sclkHalf + Config.tLeUs * p.cycPerUs

/-- `1 + tC`: the cycles of a `WAIT(t)` (R96). -/
def waitCycles (p : Config.Params) (t : Nat) : Nat := 1 + t * p.cycPerUs

/-- `D` of a sequence, by the table of R96. -/
def sequenceDuration (p : Config.Params) : Seq → Nat
  | .init => 13 * wrCycles p + 3 + (161 + 1) * p.cycPerUs
  | .sf => 3 * wrCycles p + 2 + 161 * p.cycPerUs
  | .fc => 7 * wrCycles p + 3 + (p.tFcGapUs + p.tFcTailUs) * p.cycPerUs

/-- `D` of a command word in a state: 0 where it starts no sequence (R96). -/
def commandDuration (p : Config.Params) (w : Byte) (st : BitVec 2) : Nat :=
  match startsSequence w st with
  | some (q, _) => sequenceDuration p q
  | none => 0

/-! ### The status fields after a command, as the rules write them -/

/-- The one error a command word reports in a state, in the order of R120: opcode, argument, state. -/
def errorOf (w : Byte) (st : BitVec 2) : Option ErrCode :=
  let op := (w.extractLsb' 4 4).toNat
  if 5 ≤ op then some .opcode
  else if (op = 2 ∨ op = 3) ∧ 8 ≤ (w.extractLsb' 0 4).toNat then some .arg
  else if (op = 1 ∧ st ≠ uninit) ∨ ((op = 2 ∨ op = 3) ∧ st = uninit) then some .state
  else none

/-- `STATE` and `PROF` after a command has ended, by the table of R110. -/
def stateAfterCommand (w : Byte) (st : BitVec 2) (prof : BitVec 3) : BitVec 2 × BitVec 3 :=
  match startsSequence w st with
  | some (.init, _) => (initialized, 0#3)
  | some (_, r) => (tuned, r)
  | none => (st, prof)

/-- The status fields a command can change (R98), without `BUSY`. -/
structure StatusFields where
  state : BitVec 2
  prof : BitVec 3
  err : BitVec 3
  multi : Bool
  deriving DecidableEq, Repr

/-- The status fields of a state. -/
def State.statusFields (s : State) : StatusFields := ⟨s.state, s.prof, s.err, s.multi⟩

/-- `status` with `BUSY = 0` (R30). -/
def StatusFields.idleWord (f : StatusFields) : BitVec 16 :=
  0b0000#4 ++ BitVec.ofBool f.multi ++ f.err ++ 0b00#2 ++ 0b0#1 ++ f.prof ++ f.state

/-- The status fields after a command has ended: `STATE` and `PROF` by R110, `ERR` and `MULTI` by R117 and R109. -/
def StatusFields.after (f : StatusFields) (w : Byte) : StatusFields :=
  let st := stateAfterCommand w f.state f.prof
  match errorOf w f.state with
  | some c => if f.err = 0 then ⟨st.1, st.2, c.bits, f.multi⟩ else ⟨st.1, st.2, f.err, true⟩
  | none => if opField w = 4#4 then ⟨st.1, st.2, 0, false⟩ else ⟨st.1, st.2, f.err, f.multi⟩

/-- The traces of command words run one after the other, concatenated in order (R97). -/
def programTrace (p : Config.Params) : List Byte → StatusFields → List TraceItem
  | [], _ => []
  | w :: ws, f => commandTrace p w f.state ++ programTrace p ws (f.after w)

/-- The edges command words take that are run one after the other: each has its accepting edge and its `D` busy cycles. -/
def programDuration (p : Config.Params) : List Byte → StatusFields → Nat
  | [], _ => 0
  | w :: ws, f => 1 + commandDuration p w f.state + programDuration p ws (f.after w)

/-! ### The synthesizer's shadow after frames -/

/-- What a frame that carries `w` does to the shadow (R83, R84). -/
def Synth.receive (y : Synth) (w : Word) : Synth := { y with shift := w }.write (addressField w) w

/-- What frames in order do to the shadow. -/
def Synth.receiveAll (y : Synth) (ws : List Word) : Synth := ws.foldl Synth.receive y

/-! ### The host's acts while the controller is busy -/

/-- The host's acts after `n` edges at none of which a command is accepted. -/
def hostAfterBusy : Nat → List HostAct → List HostAct
  | 0, h => h
  | n + 1, h => hostAfterBusy n (hostAfter false h)

/-- Whether an act leaves `rst_n` high. -/
def HostAct.keepsRunning : HostAct → Bool
  | .edge p => p.rstN
  | .offer _ => true

/-- The host holds `rst_n = 1` at the next `n` edges. -/
def noReset (n : Nat) (h : List HostAct) : Bool := (h.take n).all HostAct.keepsRunning

/-- The command word an act offers. A word at a reset edge is offered too, though it "is not accepted" (R137). -/
def HostAct.offered : HostAct → Option Byte
  | .edge p => if p.cmdValid then some p.cmdWord else none
  | .offer w => some w

/-! ### The end of a run and its observation -/

/-- "A run of the controller is over when `PHASE = IDLE` and the host offers no further command" (R149): none of the
host's acts to come offers one. -/
def State.runOver (s : State) : Bool := s.cmdReady && s.host.all fun a => a.offered.isNone

/-- What the edge adds to the trace of the run: the item of a `WR` or `WAIT` at its last cycle, and the beginning of a
frame that a reset edge cuts short after a pin has moved (R92, R97, R138; log entry 21). -/
def State.edgeTrace (s : State) : List TraceItem :=
  if s.tmr = 0 ∧ (s.phase = Phase.leh.bits ∨ s.phase = Phase.wait.bits) then
    match s.microOp with
    | some (.wr k m) => [.frame (muxWord s.params s.row k m)]
    | some (.wait t) => [.gap t]
    | _ => []
  else if s.portIn.rstN = false ∧ s.inFrame = true ∧ (0 < s.bitsClocked ∨ s.mosi = true) then
    [.cut ((wireBits s.frameWord).take s.bitsClocked) s.le]
  else []

/-- The trace of `n` edges: the traces of its commands, one after the other (R97, R149), with what resets cut short. -/
def runTrace : Nat → State → List TraceItem
  | 0, _ => []
  | n + 1, s =>
    match step s with
    | .next t => s.edgeTrace ++ runTrace n t
    | _ => s.edgeTrace

/-- The observation of a run: "the concatenated trace of `41_commands.md` rule R97 together with the final `status`"
(R149). It says nothing of the synthesizer. -/
structure Observation where
  trace : List TraceItem
  status : BitVec 16
  deriving DecidableEq, Repr

/-- The observation of the run of `n` edges, if it is over: "A run with `BUSY = 1` is not over" (R149). -/
def observeRun (n : Nat) (s : State) : Option Observation :=
  match Host.Core.run core n s with
  | .next t => if State.runOver t then some ⟨runTrace n s, State.status t⟩ else none
  | _ => none

/-! ### A monitor of the serial pins -/

/-- A frame as the pins show it (R76), whole or cut by a reset, with what came before it. -/
structure PinFrame where
  /-- Cycles with all pins still before the frame's first pin change. -/
  still : Nat
  /-- `spi_mosi` at the rising edges of `spi_sclk`, in time order. -/
  bits : List Bool
  /-- Cycles with `spi_le = 1`. -/
  leCycles : Nat
  deriving DecidableEq, Repr

/-- What has been seen of the pins. -/
structure Monitor where
  last : Pins
  /-- Whether a pin has been 1 since the last frame ended. -/
  moved : Bool
  still : Nat
  bits : List Bool
  leCycles : Nat
  /-- The frames that have ended or were cut, oldest first. -/
  frames : List PinFrame
  deriving DecidableEq, Repr

/-- All pins at their idle level (R86). -/
def Pins.quiet : Pins := ⟨false, false, false⟩

/-- A monitor that has seen nothing but the present levels. -/
def Monitor.start (p : Pins) : Monitor := ⟨p, false, 0, [], 0, []⟩

/-- The monitor sees `rst_n` at an edge and the levels of the cycle after it. A frame ends where `spi_le` falls, and where a
reset edge cuts it after a pin has moved: what it has sent until then is no part of the next frame (R138, 95 P4). -/
def Monitor.see (m : Monitor) (rstN : Bool) (p : Pins) : Monitor :=
  if (m.last.le && !p.le) || (!rstN && m.moved) then
    { last := p, moved := p != Pins.quiet, still := if p = Pins.quiet then 1 else 0, bits := [], leCycles := 0
      frames := m.frames ++ [⟨m.still, m.bits, m.leCycles⟩] }
  else
    { m with
      last := p
      moved := m.moved || p != Pins.quiet
      still := if m.moved || p != Pins.quiet then m.still else m.still + 1
      bits := if p.sclk && !m.last.sclk then m.bits ++ [p.mosi] else m.bits
      leCycles := if p.le then m.leCycles + 1 else m.leCycles }

/-- Run `n` edges under the monitor; none where the machine stops. -/
def watch : Nat → State → Monitor → Option (State × Monitor)
  | 0, s, m => some (s, m)
  | n + 1, s, m =>
    match step s with
    | .next t => watch n t (m.see s.portIn.rstN t.pins)
    | _ => none

/-- Whether frames read off the pins, and the cycles the pins have been still since the last of them, are a trace with
`c` cycles in a microsecond: each frame carries its word's 32 bits in order with `spi_le` high for at least 3 µs (R76),
each gap lasts at least its microseconds (R97), and a cut frame shows its bits and no whole latch pulse (R138). `g` is the
gap already asked for. The last cycle seen is the first one with `BUSY = 0`, which does not count for the final gap (R97). -/
def conforms (c : Nat) : Nat → List TraceItem → List PinFrame → Nat → Bool
  | g, [], [], still => g * c < still
  | _, [], _ :: _, _ => false
  | g, .gap t :: rest, fs, still => conforms c (g + t) rest fs still
  | _, .frame _ :: _, [], _ => false
  | g, .frame w :: rest, f :: fs, still =>
    decide (g * c ≤ f.still) && f.bits == wireBits w && decide (3 * c ≤ f.leCycles) && conforms c 0 rest fs still
  | _, .cut _ _ :: _, [], _ => false
  | g, .cut bits latched :: rest, f :: fs, still =>
    decide (g * c ≤ f.still) && f.bits == bits && decide (f.leCycles < 3 * c) && (decide (0 < f.leCycles) == latched) &&
      conforms c 0 rest fs still

end Sys2Proof.Machine
end

