-- ==== Sys2Proof/Safety.lean ====
section
/-! DEFINITION. What a safe run keeps: R37's reachable-state invariant, where a running sequence stands in its list,
and what the serial pins have carried of a frame; and the rules that a run keeps from one state to the next. -/

namespace Sys2Proof.Machine

/-- R37, clause by clause. -/
structure State.Legal (s : State) : Prop where
  state_code : s.state ≠ 3#2
  seq_code : s.seq ≠ 3#2
  phase_code : s.phase ≠ 7#3
  err_code : s.err.toNat ≤ 3
  prof_zero : s.state ≠ tuned → s.prof = 0#3
  idle_quiet : s.phase = Phase.idle.bits →
    s.shreg = 0#32 ∧ s.nbits = 0#6 ∧ s.tmr = 0 ∧ s.sclk = false ∧ s.le = false
  sclk_phase : s.sclk = true ↔ s.phase = Phase.shi.bits
  le_phase : s.le = true ↔ s.phase = Phase.leh.bits

/-- Where a running sequence stands: its micro-op exists and fits the phase, the timer fits `TMR_W` bits (R32), an
error has been raised if `MULTI` is set (R27), INIT runs only in UNINIT and on row 1 and the others only after it (R110, R101). -/
structure State.InSequence (s : State) : Prop where
  timer_fits : s.tmr < 2 ^ s.params.tmrW
  multi_err : s.multi = true → s.err ≠ 0#3
  fetch_op : s.phase = Phase.fetch.bits →
    s.microOp.isSome = true ∧ s.shreg = 0#32 ∧ s.nbits = 0#6 ∧ s.tmr = 0
  frame_op : s.inFrame = true → ∃ k m, s.microOp = some (.wr k m)
  wait_op : s.phase = Phase.wait.bits → (∃ t, s.microOp = some (.wait t)) ∧ s.shreg = 0#32 ∧ s.nbits = 0#6
  init_state : s.busy = true → s.seq = Seq.init.bits → s.state = uninit ∧ s.row = 1#3
  switch_state : s.busy = true → s.seq ≠ Seq.init.bits → s.state ≠ uninit

/-- What a running frame has sent: `SHREG` is what is left of the word, and the synthesizer's shift register ends in
what was clocked (R80, R83). -/
structure State.InFrame (s : State) : Prop where
  setup_bits : s.phase = Phase.setup.bits → s.nbits = 32#6
  shi_bits : s.phase = Phase.shi.bits → 1 ≤ s.nbits.toNat ∧ s.nbits.toNat ≤ 32
  slo_bits : s.phase = Phase.slo.bits → s.nbits.toNat ≤ 31
  leh_bits : s.phase = Phase.leh.bits → s.nbits = 0#6
  left_over : s.inFrame = true → s.shreg = s.frameWord <<< (32 - s.nbits.toNat)
  clocked : s.inFrame = true →
    ∀ i, i < s.bitsClocked → s.synth.shift.getLsbD i = s.frameWord.getLsbD (i + (32 - s.bitsClocked))

/-- The invariant of the machine. -/
structure State.Inv (s : State) : Prop where
  legal : s.Legal
  inSequence : s.InSequence
  inFrame : s.InFrame

/-- How many micro-ops of the running sequence the shadow has seen whole: a `WR` counts from the rise of its `spi_le`. -/
def State.opsSeen (s : State) : Nat := s.upc.toNat + if s.le then 1 else 0

/-- The shadow's register `k` holds row 1's word. -/
def State.HoldsRowOne (s : State) (k : Fin 13) : Prop := s.synth.regs[k] = s.params.profile[(1 : Fin 8)][k]

/-- What R113 says of registers 3..12 after a command has ended, "That is `P[1][k]`", with what a running sequence has
written of it so far: INIT writes register `k` as its micro-op `12 − k`, SETFREQ none of them, and SETFREQ.FC changes
register 4 with its micro-op 1 and writes it back with its micro-op 5 (R93). It is about the shadow of R38 (log entry 6). -/
structure State.ShadowHoldsTable (s : State) : Prop where
  idle : s.busy = false → s.state ≠ uninit → ∀ k : Fin 13, 3 ≤ k.val → s.HoldsRowOne k
  init : s.busy = true → s.seq = Seq.init.bits → ∀ k : Fin 13, 3 ≤ k.val → 13 ≤ k.val + s.opsSeen → s.HoldsRowOne k
  sf : s.busy = true → s.seq = Seq.sf.bits → ∀ k : Fin 13, 3 ≤ k.val → s.HoldsRowOne k
  fc : s.busy = true → s.seq = Seq.fc.bits → ∀ k : Fin 13, 3 ≤ k.val →
    k.val ≠ 4 ∨ s.opsSeen < 2 ∨ 6 ≤ s.opsSeen → s.HoldsRowOne k

/-- An edge that accepts a command (R61). -/
def State.accepts (s : State) : Bool := s.portIn.rstN && s.cmdReady && s.portIn.cmdValid

/-- A command is accepted at the coming edge, the pins are low, and the host holds `rst_n = 1` for as long as the
command then keeps the machine busy: where claims about a whole command begin. -/
structure State.BeginsCommand (s : State) (w : Byte) : Prop where
  port : s.portIn = ⟨true, true, w⟩
  idle : s.phase = Phase.idle.bits
  pins_low : s.pins = Pins.quiet
  no_reset : noReset (commandDuration s.params w s.state) (hostAfter true s.host) = true

/-! ### The rules of acceptance, as the spec writes them -/

/-- R90's accept step for a command word, as its pseudocode reads. -/
def acceptRule (w : Byte) (s : State) : State :=
  let op := (w.extractLsb' 4 4).toNat
  let a := w.extractLsb' 0 4
  let raise : BitVec 3 → State := fun c => if s.err = 0 then { s with err := c } else { s with multi := true }
  let start : BitVec 2 → BitVec 3 → State := fun q r => { s with seq := q, row := r, upc := 0, phase := 1 }
  match op with
  | 0 => s
  | 1 => if s.state ≠ 0 then raise 3 else start 0 1
  | 2 => if a.getLsbD 3 = true then raise 2 else if s.state = 0 then raise 3 else start 1 (a.extractLsb' 0 3)
  | 3 => if a.getLsbD 3 = true then raise 2 else if s.state = 0 then raise 3 else start 2 (a.extractLsb' 0 3)
  | 4 => { s with err := 0, multi := false }
  | _ => raise 1

end Sys2Proof.Machine
end

