-- ==== Sys2Proof/Certificates/Slice0/Obligations.lean ====
section
/-! DEFINITION. The statements for the provers. -/

open Sys2Proof Sys2Proof.Machine

/-! ### Encoding -/

/-- O1. A program of well-formed commands is read back from its bytes, whatever bytes follow (R62 to R72). -/
def Obligations.DecodeInvertsEncode : Prop :=
  (∀ (i : Instr) (rest : List Byte), i.WellFormed → decode (encode i ++ rest) = .ok (i, rest)) ∧
  (∀ (is : List Instr), (∀ i ∈ is, i.WellFormed) → decodeProgram (encodeProgram is) = is)

/-- O2. Every byte is the word of the well-formed command it decodes to: no bit is dropped (R62, R63). -/
def Obligations.EncodeInvertsDecode : Prop :=
  ∀ w : Byte, (decodeWord w).WellFormed ∧ encodeWord (decodeWord w) = w

/-- O3. Every byte is in exactly one row of the opcode table, and decodes to a command of that row
("The full opcode map. Every value of `OP` has a row", R63). -/
def Obligations.OpcodeTableIsUnambiguous : Prop :=
  ∀ w : Byte, rowsOf w = [(decodeWord w).rowIndex]

/-- O4. Words written out from R64 to R69, one of each row, decode to their commands. -/
def Obligations.WrittenWordsDecode : Prop :=
  decodeWord 0b00000101#8 = .nop 5 ∧ decodeWord 0b00011010#8 = .init 10 ∧
  decodeWord 0b00100110#8 = .setfreq 6 ∧ decodeWord 0b00110111#8 = .setfreqFc 7 ∧
  decodeWord 0b01001111#8 = .clrerr 15 ∧ decodeWord 0b00101001#8 = .setfreqRefused 9 ∧
  decodeWord 0b00111111#8 = .setfreqFcRefused 15 ∧ decodeWord 0b01010000#8 = .reserved5 0 ∧
  decodeWord 0b01111100#8 = .reserved6to7 7 12 ∧ decodeWord 0b11111111#8 = .reserved8toF 15 15

/-- O5. The assembler's word of each line of R73: it writes 0 in ignored `ARG` fields and refuses an index above 15,
and each assembled line but `.word` decodes to the command its mnemonic names. That a `.word` above 255 is refused is the
model's choice (log entry 17). -/
def Obligations.AssembledLinesDecode : Prop :=
  assemble .nop = .ok 0x00#8 ∧ assemble .init = .ok 0x10#8 ∧ assemble .clrerr = .ok 0x40#8 ∧
  decodeWord 0x00#8 = .nop 0 ∧ decodeWord 0x10#8 = .init 0 ∧ decodeWord 0x40#8 = .clrerr 0 ∧
  (∀ i : Nat, 15 < i → assemble (.setfreq i) = .error .indexTooLarge ∧
    assemble (.setfreqFc i) = .error .indexTooLarge) ∧
  (∀ i : Nat, i ≤ 15 → ∃ w v, assemble (.setfreq i) = .ok w ∧ assemble (.setfreqFc i) = .ok v ∧
    w.toNat = 32 + i ∧ v.toNat = 48 + i ∧
    decodeWord w = (if i ≤ 7 then .setfreq (BitVec.ofNat 4 i) else .setfreqRefused (BitVec.ofNat 4 i)) ∧
    decodeWord v = (if i ≤ 7 then .setfreqFc (BitVec.ofNat 4 i) else .setfreqFcRefused (BitVec.ofNat 4 i))) ∧
  (∀ b : Nat, b ≤ 255 → ∃ w, assemble (.word b) = .ok w ∧ w.toNat = b) ∧
  (∀ b : Nat, 255 < b → assemble (.word b) = .error .wordTooLarge)

/-! ### Reset -/

/-- O6. R133 and R134: at an edge with `rst_n = 0` every register takes its reset value, whatever the state was; the
outputs are those of a machine that waits for its first command; the build is not affected. -/
def Obligations.ResetEdgeSetsEveryRegister : Prop :=
  ∀ s : State, s.portIn.rstN = false →
    ∃ t, step s = .next t ∧
      t.state = 0 ∧ t.prof = 0 ∧ t.row = 0 ∧ t.seq = 0 ∧ t.upc = 0 ∧ t.phase = 0 ∧ t.nbits = 0 ∧ t.tmr = 0 ∧
      t.shreg = 0 ∧ t.sclk = false ∧ t.le = false ∧ t.err = 0 ∧ t.multi = false ∧
      t.status = 0 ∧ t.cmdReady = true ∧ t.busy = false ∧ t.pins = Pins.quiet ∧ t.build = s.build

/-- O7. The model's state right after reset: R134's registers, and the invariant of Safety.lean. -/
def Obligations.ResetStateMeetsInvariant : Prop :=
  State.reset.status = 0 ∧ State.reset.cmdReady = true ∧ State.reset.pins = Pins.quiet ∧ State.reset.Inv

/-- O8. Reset and the synthesizer (R136, R138): an edge with `rst_n = 0` leaves the shadow alone, but that it turns the
register a cut latch-enable pulse was committing into a free word (the model's form of "any value", log entry 9; its
taking the address from `w[3:0]` and the pulse's rising edge is log entry 6). -/
def Obligations.ResetLeavesTheSynthesizer : Prop :=
  ∀ s : State, s.portIn.rstN = false →
    ∃ t, step s = .next t ∧ t.synth.shift = s.synth.shift ∧
      (s.le = false → t.synth = s.synth ∧ t.freeCount = s.freeCount) ∧
      (s.le = true → t.freeCount = s.freeCount + 1 ∧
        ∀ k : Fin 13, t.synth.regs[k] =
          if addressField s.synth.shift = k.val then Config.freeWord s.freeCount else s.synth.regs[k])

/-! ### The command port -/

/-- O9. A step runs the decoded command: at an edge with `rst_n = 1`, `cmd_valid = 1` and `PHASE = IDLE` (R61) the step
is `exec` of the command the word on the port decodes to, at the state whose host acts are those after the accepting edge
(the model's own field, log entry 2). -/
def Obligations.StepRunsTheDecodedCommand : Prop :=
  ∀ (s : State) (w : Byte), s.portIn = ⟨true, true, w⟩ → s.phase = Phase.idle.bits →
    step s = exec (decodeWord w) { s with host := hostAfter true s.host }

/-- O10. R90, the accept step: with `cmd_valid = 0` in IDLE no register changes, and an accepted word does what R90's
pseudocode says. -/
def Obligations.AcceptStepFollowsTheRule : Prop :=
  ∀ s : State, s.portIn.rstN = true → s.phase = Phase.idle.bits →
    (s.portIn.cmdValid = false → step s = .next { s with host := hostAfter false s.host }) ∧
    (s.portIn.cmdValid = true →
      step s = .next (acceptRule s.portIn.cmdWord { s with host := hostAfter true s.host }))

/-- O11. At an edge that accepts no command the controller ignores `cmd_word` and `cmd_valid` (R61): whatever the host
drives on them, the same registers, shadow and stop come out. -/
def Obligations.PortIsIgnoredOffTheAcceptingEdge : Prop :=
  ∀ (s : State) (h h' : List HostAct),
    ({ s with host := h } : State).portIn.rstN = ({ s with host := h' } : State).portIn.rstN →
    ({ s with host := h } : State).accepts = false → ({ s with host := h' } : State).accepts = false →
    (∀ t, step { s with host := h } = .next t → step { s with host := h' } = .next { t with host := hostAfter false h' }) ∧
    (∀ f, step { s with host := h } = .fault f → step { s with host := h' } = .fault f)

/-- O12. A word that is offered and not taken stays offered (R61; the offering host is the model's, log entry 2): at an
edge with `rst_n = 1` that accepts nothing, the act is still the next one. -/
def Obligations.OfferedWordIsNotLost : Prop :=
  ∀ (s t : State) (w : Byte) (rest : List HostAct), s.host = .offer w :: rest → step s = .next t →
    (s.phase ≠ Phase.idle.bits → t.host = .offer w :: rest) ∧ (s.phase = Phase.idle.bits → t.host = rest)

/-! ### The commands at acceptance -/

/-- O13. NOP (R99, R64): no register changes, for every `ARG` and in every state, and the next command can be accepted
at the next edge. -/
def Obligations.NopChangesNothing : Prop :=
  (∀ arg : BitVec 4, encodeWord (.nop arg) = 0x0#4 ++ arg ∧ decodeWord (0x0#4 ++ arg) = .nop arg) ∧
  (∀ (arg : BitVec 4) (s : State), exec (.nop arg) s = .next s) ∧
  (∀ (arg : BitVec 4) (s : State), s.portIn = ⟨true, true, 0x0#4 ++ arg⟩ → s.cmdReady = true →
    ∃ t, step s = .next t ∧ t = { s with host := hostAfter true s.host } ∧ t.cmdReady = true ∧ t.busy = false)

/-- O14. CLRERR (R109, R68): `ERR` and `MULTI` are cleared and nothing else changes, for every `ARG` and in every state; while
a sequence runs it is not accepted, so that they keep their values. -/
def Obligations.ClrerrClearsOnlyTheErrors : Prop :=
  (∀ arg : BitVec 4, encodeWord (.clrerr arg) = 0x4#4 ++ arg ∧ decodeWord (0x4#4 ++ arg) = .clrerr arg) ∧
  (∀ (arg : BitVec 4) (s : State), exec (.clrerr arg) s = .next { s with err := 0, multi := false }) ∧
  (∀ (arg : BitVec 4) (s : State), s.err = 0 → s.multi = false → exec (.clrerr arg) s = .next s) ∧
  (∀ (arg : BitVec 4) (s t : State), s.portIn = ⟨true, true, 0x4#4 ++ arg⟩ → s.phase ≠ Phase.idle.bits →
    step s = .next t → t.err = s.err ∧ t.multi = s.multi)

/-- O15. INIT in UNINIT starts its sequence on row 1 and changes nothing else; no value of `ARG` changes that (R65, R101). -/
def Obligations.InitStartsOnRowOne : Prop :=
  (∀ arg : BitVec 4, encodeWord (.init arg) = 0x1#4 ++ arg ∧ decodeWord (0x1#4 ++ arg) = .init arg) ∧
  (∀ (arg : BitVec 4) (s : State), s.state = uninit →
    exec (.init arg) s = .next { s with seq := 0, row := 1, upc := 0, phase := 1 })

/-- O16. SETFREQ i with a valid index, outside UNINIT, starts its sequence on row `i` and changes nothing else; its words with
an index of 8..15 raise ERR_ARG (R66, R104). -/
def Obligations.SetfreqStartsOnItsRow : Prop :=
  (∀ arg : BitVec 4, arg.toNat ≤ 7 → encodeWord (.setfreq arg) = 0x2#4 ++ arg ∧ decodeWord (0x2#4 ++ arg) = .setfreq arg) ∧
  (∀ (arg : BitVec 4) (s : State), arg.toNat ≤ 7 → s.state ≠ uninit →
    exec (.setfreq arg) s = .next { s with seq := 1, row := BitVec.ofNat 3 arg.toNat, upc := 0, phase := 1 }) ∧
  (∀ (arg : BitVec 4) (s : State), 8 ≤ arg.toNat → exec (decodeWord (0x2#4 ++ arg)) s = .next (s.raiseError .arg))

/-- O17. SETFREQ.FC i with a valid index, outside UNINIT, starts its sequence on row `i` and changes nothing else; its words
with an index of 8..15 raise ERR_ARG (R67, R107). -/
def Obligations.SetfreqFcStartsOnItsRow : Prop :=
  (∀ arg : BitVec 4, arg.toNat ≤ 7 →
    encodeWord (.setfreqFc arg) = 0x3#4 ++ arg ∧ decodeWord (0x3#4 ++ arg) = .setfreqFc arg) ∧
  (∀ (arg : BitVec 4) (s : State), arg.toNat ≤ 7 → s.state ≠ uninit →
    exec (.setfreqFc arg) s = .next { s with seq := 2, row := BitVec.ofNat 3 arg.toNat, upc := 0, phase := 1 }) ∧
  (∀ (arg : BitVec 4) (s : State), 8 ≤ arg.toNat → exec (decodeWord (0x3#4 ++ arg)) s = .next (s.raiseError .arg))

/-- O18. Reserved words raise ERR_OPCODE (code 1), whatever `ARG` and `STATE` are, and change nothing else: `ERR` takes
the code where it is 0, and else `MULTI` is set (R118, R117). -/
def Obligations.ReservedWordsRaiseErrOpcode : Prop :=
  ∀ (op arg : BitVec 4) (s : State),
    (s.err = 0 →
      exec (.reserved5 arg) s = .next { s with err := 1 } ∧ exec (.reserved6to7 op arg) s = .next { s with err := 1 } ∧
      exec (.reserved8toF op arg) s = .next { s with err := 1 }) ∧
    (s.err ≠ 0 →
      exec (.reserved5 arg) s = .next { s with multi := true } ∧
      exec (.reserved6to7 op arg) s = .next { s with multi := true } ∧
      exec (.reserved8toF op arg) s = .next { s with multi := true }) ∧
    decodeWord (0x5#4 ++ arg) = .reserved5 arg ∧
    ((op = 6 ∨ op = 7) → decodeWord (op ++ arg) = .reserved6to7 op arg) ∧
    (8 ≤ op.toNat → decodeWord (op ++ arg) = .reserved8toF op arg)

/-- O19. SETFREQ and SETFREQ.FC with an index of 8..15 raise ERR_ARG (code 2) in every `STATE`, and change nothing else,
so that the table is not read with the index (R119, R117). -/
def Obligations.BadIndexRaisesErrArg : Prop :=
  ∀ (arg : BitVec 4) (s : State),
    (s.err = 0 →
      exec (.setfreqRefused arg) s = .next { s with err := 2 } ∧
      exec (.setfreqFcRefused arg) s = .next { s with err := 2 }) ∧
    (s.err ≠ 0 →
      exec (.setfreqRefused arg) s = .next { s with multi := true } ∧
      exec (.setfreqFcRefused arg) s = .next { s with multi := true }) ∧
    (8 ≤ arg.toNat →
      decodeWord (0x2#4 ++ arg) = .setfreqRefused arg ∧ decodeWord (0x3#4 ++ arg) = .setfreqFcRefused arg ∧
      exec (.setfreq arg) s = exec (.setfreqRefused arg) s ∧ exec (.setfreqFc arg) s = exec (.setfreqFcRefused arg) s)

/-- O20. ERR_STATE (R121): a SETFREQ or SETFREQ.FC with a valid index in UNINIT, and an INIT outside UNINIT, raise code 3
and change nothing else. -/
def Obligations.WrongStateRaisesErrState : Prop :=
  ∀ (arg : BitVec 4) (s : State),
    (s.state ≠ uninit → exec (.init arg) s = .next (if s.err = 0 then { s with err := 3 } else { s with multi := true })) ∧
    (s.state = uninit → arg.toNat ≤ 7 →
      exec (.setfreq arg) s = .next (if s.err = 0 then { s with err := 3 } else { s with multi := true }) ∧
      exec (.setfreqFc arg) s = .next (if s.err = 0 then { s with err := 3 } else { s with multi := true }))

/-- O21. One command reports at most one error, the first of ERR_OPCODE, ERR_ARG, ERR_STATE that applies (R120); a command
that reports none leaves `ERR` and `MULTI` as they were, unless it is CLRERR. -/
def Obligations.OneErrorInOrder : Prop :=
  ∀ (w : Byte) (s : State),
    (∀ c, errorOf w s.state = some c → exec (decodeWord w) s = .next (s.raiseError c)) ∧
    (errorOf w s.state = none → ∃ t, exec (decodeWord w) s = .next t ∧
      (opField w ≠ 4 → t.err = s.err ∧ t.multi = s.multi)) ∧
    errorOf 0x29#8 uninit = some .arg

/-- O22. Errors are sticky and do not block (R117): raising one touches nothing but `ERR` where it is 0 and `MULTI` where it
is not; only CLRERR and reset take back `ERR` or `MULTI`; and a command that may start a sequence starts it whatever
`ERR` and `MULTI` hold. -/
def Obligations.ErrorsAreStickyAndDoNotBlock : Prop :=
  (∀ (s : State) (c : ErrCode),
    s.raiseError c = if s.err = 0 then { s with err := c.bits } else { s with multi := true }) ∧
  (∀ s t : State, step s = .next t →
    ((s.err ≠ 0 ∧ t.err ≠ s.err) ∨ (s.multi = true ∧ t.multi = false)) →
    s.portIn.rstN = false ∨ (s.accepts = true ∧ opField s.portIn.cmdWord = 4)) ∧
  (∀ (s : State) (w : Byte) (q : Seq) (r : BitVec 3), startsSequence w s.state = some (q, r) →
    exec (decodeWord w) s = .next { s with seq := q.bits, row := r, upc := 0, phase := 1 })

/-- O23. The frame of every command at acceptance: the pins, the frame registers, the timer, `STATE`, `PROF`, the shadow,
the host's acts and the build are as before ("before any pin changes", R91); `ERR` and `MULTI` change only where the
command is refused or is CLRERR; `SEQ`, `ROW`, `UPC` and `PHASE` change only where it starts a sequence. -/
def Obligations.CommandsAtAcceptanceMoveNoPin : Prop :=
  ∀ (w : Byte) (s : State), ∃ t, exec (decodeWord w) s = .next t ∧
    t.pins = s.pins ∧ t.shreg = s.shreg ∧ t.nbits = s.nbits ∧ t.tmr = s.tmr ∧ t.state = s.state ∧ t.prof = s.prof ∧
    t.synth = s.synth ∧ t.host = s.host ∧ t.build = s.build ∧ t.freeCount = s.freeCount ∧
    (errorOf w s.state = none → opField w ≠ 4 → t.err = s.err ∧ t.multi = s.multi) ∧
    (startsSequence w s.state = none → t.seq = s.seq ∧ t.row = s.row ∧ t.upc = s.upc ∧ t.phase = s.phase)

/-! ### Outputs, the table and the multiplexer -/

/-- O24. The fields of `status[15:0]` (R30) and the two signals that are functions of `PHASE` (R28). -/
def Obligations.StatusWordLayout : Prop :=
  ∀ s : State,
    s.status.extractLsb' 0 2 = s.state ∧ s.status.extractLsb' 2 3 = s.prof ∧
    s.status.getLsbD 5 = s.busy ∧ s.status.extractLsb' 6 2 = 0 ∧ s.status.extractLsb' 8 3 = s.err ∧
    s.status.getLsbD 11 = s.multi ∧ s.status.extractLsb' 12 4 = 0 ∧
    (s.busy = true ↔ s.phase ≠ 0) ∧ (s.cmdReady = true ↔ s.phase = 0)

/-- O25. CLR21 clears bit 21 and keeps every other bit (R50); SET4 sets bit 4 and keeps every other bit (R51); R50's
example. -/
def Obligations.ModifiersTouchOneBit : Prop :=
  (∀ (w : Word) (i : Nat), (modWord .clr21 w).getLsbD i = (w.getLsbD i && i != 21) ∧
    (modWord .set4 w).getLsbD i = (w.getLsbD i || i == 4) ∧ modWord .none w = w) ∧
  modWord .clr21 0x00200320#32 = 0x00000320#32

/-- O26. The table (R45, R46): indices 13..15 read as 0; indices 3..12 read the same in every row of any build; and
a build is made of exactly the parameters that meet R8's bounds and R46 clause 1. That a build need not hold the source's
one word (R46 clause 2) is the model's choice, log entry 4; the build of `State.reset` holds it. -/
def Obligations.BuildsHoldLegalTables : Prop :=
  (∀ (s : State) (r : BitVec 3) (k : BitVec 4), 13 ≤ k.toNat → profileRead s.params r k = 0) ∧
  (∀ (s : State) (r : BitVec 3) (k : BitVec 4), 3 ≤ k.toNat → profileRead s.params r k = profileRead s.params 1 k) ∧
  (∀ (s : State) (r : Fin 8) (k : Fin 13),
    profileRead s.params (BitVec.ofNat 3 r.val) (BitVec.ofNat 4 k.val) = s.params.profile[r][k]) ∧
  (∀ p : Config.Params, (∃ b, Config.Build.make p = .ok b ∧ b.val = p) ↔ p.Legal) ∧
  (∀ p : Config.Params, 1 ≤ p.cycPerUs → 1 ≤ p.sclkHalf → 1 ≤ p.tFcGapUs → 1 ≤ p.tFcTailUs → ¬ p.RowsAgree →
    Config.Build.make p = .error .profileRowsDiffer) ∧
  State.reset.params.HasSourceWord

/-- O27. Byte order on the wire (R40, R41): the four bytes of a word, and the 32 bits in time order are theirs, most
significant first. -/
def Obligations.FourBytesAreTheFrameBits : Prop :=
  ∀ w : Word,
    wireByte w 0 = w.extractLsb' 24 8 ∧ wireByte w 1 = w.extractLsb' 16 8 ∧ wireByte w 2 = w.extractLsb' 8 8 ∧
    wireByte w 3 = w.extractLsb' 0 8 ∧
    wireBits w = (List.range 4).flatMap fun i => (List.range 8).map fun b => (wireByte w i).getLsbD (7 - b)

/-! ### The sequencer, edge by edge -/

/-- O28. The FETCH step (R79, R94): a `WR(k, m)` loads the modified table word and 32, and enters SETUP; a `WAIT(t)` enters
WAIT for `t` microseconds; nothing else changes. -/
def Obligations.FetchBeginsTheMicroOp : Prop :=
  ∀ s : State, s.portIn.rstN = true → s.phase = Phase.fetch.bits →
    (∀ k m, s.microOp = some (.wr k m) →
      step s = .next { s with
        shreg := muxWord s.params s.row k m, nbits := 32, tmr := s.params.sclkHalf - 1, phase := 2
        host := hostAfter false s.host }) ∧
    (∀ n, s.microOp = some (.wait n) →
      step s = .next { s with tmr := n * s.params.cycPerUs - 1, phase := 6, host := hostAfter false s.host })

/-- O29. `END` commits (R95, R94), and nothing else changes; at any other edge with `rst_n = 1` `STATE` and `PROF` keep
their values, so that `PROF = 0` whenever `STATE` is not TUNED stays true (R19). -/
def Obligations.StateAndProfChangeOnlyAtEnd : Prop :=
  (∀ s : State, s.portIn.rstN = true → s.phase = Phase.fetch.bits → s.microOp = some .done →
    step s = .next (if s.seq = 0
      then { s with state := initialized, prof := 0, phase := 0, host := hostAfter false s.host }
      else { s with state := tuned, prof := s.row, phase := 0, host := hostAfter false s.host })) ∧
  (∀ s t : State, s.portIn.rstN = true → step s = .next t → (t.state ≠ s.state ∨ t.prof ≠ s.prof) →
    s.phase = Phase.fetch.bits ∧ s.microOp = some .done ∧ t.busy = false) ∧
  (∀ s t : State, step s = .next t → (s.state ≠ tuned → s.prof = 0) → (t.state ≠ tuned → t.prof = 0))

/-- O30. In a cycle of a timed phase in which `TMR` is not 0 the timer counts down and nothing else changes; every phase's
load fits `TMR_W` bits, and at the defaults the largest load is 1609 and `TMR_W` is 11 (R32). -/
def Obligations.TimerCountsDown : Prop :=
  (∀ s : State, s.portIn.rstN = true → s.tmr ≠ 0 →
    (s.phase = Phase.setup.bits ∨ s.phase = Phase.shi.bits ∨ s.phase = Phase.slo.bits ∨ s.phase = Phase.leh.bits ∨
      s.phase = Phase.wait.bits) →
    step s = .next { s with tmr := s.tmr - 1, host := hostAfter false s.host }) ∧
  (∀ p : Config.Params, p.longestPhase - 1 < 2 ^ p.tmrW) ∧
  Config.defaults.longestPhase - 1 = 1609 ∧ Config.defaults.tmrW = 11

/-- O31. What a timed phase does in the cycle where `TMR = 0` (R80, R94), with what the synthesizer sees of a rising pin
(the shadow of R38). The two wraps that R53 calls unreachable are left to O42. -/
def Obligations.TimedPhasesEndByTheRule : Prop :=
  ∀ s : State, s.portIn.rstN = true → s.tmr = 0 →
    (s.phase = Phase.setup.bits →
      step s = .next { s with
        sclk := true, tmr := s.params.sclkHalf - 1, phase := 3, host := hostAfter false s.host
        synth := if s.sclk then s.synth else s.synth.sample s.mosi }) ∧
    (s.phase = Phase.shi.bits → s.nbits ≠ 0 →
      step s = .next { s with
        sclk := false, shreg := s.shreg <<< 1, nbits := s.nbits - 1, tmr := s.params.sclkHalf - 1, phase := 4
        host := hostAfter false s.host }) ∧
    (s.phase = Phase.slo.bits → s.nbits ≠ 0 →
      step s = .next { s with
        sclk := true, tmr := s.params.sclkHalf - 1, phase := 3, host := hostAfter false s.host
        synth := if s.sclk then s.synth else s.synth.sample s.mosi }) ∧
    (s.phase = Phase.slo.bits → s.nbits = 0 →
      step s = .next { s with
        le := true, tmr := 3 * s.params.cycPerUs - 1, phase := 5, host := hostAfter false s.host
        synth := if s.le then s.synth else s.synth.commit }) ∧
    (s.phase = Phase.leh.bits → s.upc ≠ 15 →
      step s = .next { s with le := false, upc := s.upc + 1, phase := 1, host := hostAfter false s.host }) ∧
    (s.phase = Phase.wait.bits → s.upc ≠ 15 →
      step s = .next { s with upc := s.upc + 1, phase := 1, host := hostAfter false s.host })

/-- O32. `SEQ`, `ROW` and `UPC` are written only where their rules say (R20, R21, R22): at an edge with `rst_n = 1`, `SEQ` and
`ROW` change only where a word that starts a sequence is accepted, and take that sequence and row; `UPC` changes only
there, to 0, and at the end of a `WR` or `WAIT`, by 1. -/
def Obligations.SequencerRegistersMoveByTheirRules : Prop :=
  ∀ s t : State, s.portIn.rstN = true → step s = .next t →
    ((t.seq ≠ s.seq ∨ t.row ≠ s.row) → s.accepts = true ∧
      ∃ q r, startsSequence s.portIn.cmdWord s.state = some (q, r) ∧ t.seq = q.bits ∧ t.row = r) ∧
    (t.upc ≠ s.upc →
      (s.accepts = true ∧ (startsSequence s.portIn.cmdWord s.state).isSome = true ∧ t.upc = 0) ∨
      ((s.phase = Phase.leh.bits ∨ s.phase = Phase.wait.bits) ∧ s.tmr = 0 ∧ t.upc = s.upc + 1 ∧
        t.phase = Phase.fetch.bits))

/-! ### Whole micro-ops and commands -/

/-- O33. The frame, cycle by cycle (R81): from the FETCH cycle of a `WR(k, m)`, with the serial pins low and no reset, the
`j`-th rising `spi_sclk` edge is at the end of cycle `f + H + 2Hj` with bit `w[31−j]` on `spi_mosi`, the `j`-th falling one
at the end of cycle `f + 2H + 2Hj`, `spi_le` rises at the end of `f + 65H` and falls at the end of `f + 65H + L`, where the
next FETCH begins. (`n` edges after the FETCH cycle's state is the state of cycle `f + n`.) -/
def Obligations.FrameTimingOnThePins : Prop :=
  wrCycles Config.defaults = 3281 ∧
  ∀ (s : State) (k : BitVec 4) (m : Modifier) (w : Word) (H L : Nat),
    s.phase = Phase.fetch.bits → s.microOp = some (.wr k m) → s.sclk = false → s.le = false → s.upc ≠ 15 →
    noReset (wrCycles s.params) s.host = true →
    w = muxWord s.params s.row k m → H = s.params.sclkHalf → L = 3 * s.params.cycPerUs →
    (∃ a, Host.Core.run core 1 s = .next a ∧ a.shreg = w ∧ a.mosi = w.getLsbD 31) ∧
    (∀ j, j < 32 → ∃ a b,
      Host.Core.run core (H + 2 * H * j) s = .next a ∧ step a = .next b ∧
      a.sclk = false ∧ b.sclk = true ∧ b.mosi = w.getLsbD (31 - j)) ∧
    (∀ j, j < 32 → ∃ a b,
      Host.Core.run core (2 * H + 2 * H * j) s = .next a ∧ step a = .next b ∧
      a.sclk = true ∧ b.sclk = false ∧ b.mosi = if j < 31 then w.getLsbD (30 - j) else false) ∧
    (∃ a b, Host.Core.run core (65 * H) s = .next a ∧ step a = .next b ∧ a.le = false ∧ b.le = true) ∧
    (∃ a b, Host.Core.run core (65 * H + L) s = .next a ∧ step a = .next b ∧ a.le = true ∧ b.le = false ∧
      b.phase = Phase.fetch.bits ∧ b.upc = s.upc + 1) ∧
    wrCycles s.params = 1 + 65 * H + L

/-- O34. A `WR(k, m)` as a whole (R79 to R84): after `1 + 65H + L` edges without reset `UPC` is one higher, `SHREG`, `NBITS`
and `TMR` are 0, the shadow of R38 has received the word, whatever its shift register held, and everything else is as it
was. The shadow is an ideal chip on the pins, the model's choice (log entries 6 and 20; entry 7 for an address field of
13..15): nothing is said of what a synthesizer received (R85). -/
def Obligations.WriteSendsItsWord : Prop :=
  ∀ (s : State) (k : BitVec 4) (m : Modifier),
    s.phase = Phase.fetch.bits → s.microOp = some (.wr k m) → s.sclk = false → s.le = false → s.upc ≠ 15 →
    noReset (wrCycles s.params) s.host = true →
    Host.Core.run core (wrCycles s.params) s = .next { s with
      upc := s.upc + 1, phase := Phase.fetch.bits, shreg := 0, nbits := 0, tmr := 0
      host := hostAfterBusy (wrCycles s.params) s.host
      synth := s.synth.receive (muxWord s.params s.row k m) }

/-- O35. A `WAIT(t)` as a whole (R94, R96): it takes `1 + tC` cycles, in each of which the pins are as they were, and changes
nothing but `UPC`. -/
def Obligations.WaitKeepsThePinsStill : Prop :=
  ∀ (s : State) (n : Nat), 1 ≤ n →
    s.phase = Phase.fetch.bits → s.microOp = some (.wait n) → s.upc ≠ 15 →
    noReset (waitCycles s.params n) s.host = true →
    Host.Core.run core (waitCycles s.params n) s = .next { s with
      upc := s.upc + 1, phase := Phase.fetch.bits, tmr := 0, host := hostAfterBusy (waitCycles s.params n) s.host } ∧
    (∀ j, j ≤ waitCycles s.params n → ∃ a, Host.Core.run core j s = .next a ∧ a.pins = s.pins)

/-- O36. INIT as a whole (R101): from UNINIT, after the accepting edge and `D(INIT)` more edges without reset, the machine is
idle in INITIALIZED with `PROF = 0`, the shadow of R38 has received the words of `Trace(INIT)` in order, and nothing else
has changed but the sequencer's own registers. The shadow is an ideal chip on the pins, the model's choice (log entries
6, 7 and 20): nothing is said of what a synthesizer received (R85, R149). -/
def Obligations.InitRunsToInitialized : Prop :=
  ∀ (s : State) (w : Byte), s.BeginsCommand w → opField w = 1 → s.state = uninit →
    Host.Core.run core (1 + sequenceDuration s.params .init) s = .next { s with
      state := initialized, prof := 0, row := 1, seq := 0, upc := 15, phase := Phase.idle.bits
      shreg := 0, nbits := 0, tmr := 0
      host := hostAfterBusy (sequenceDuration s.params .init) (hostAfter true s.host)
      synth := s.synth.receiveAll (frameWords (sequenceTrace s.params 1 .init)) }

/-- O37. SETFREQ i as a whole (R104): from INITIALIZED or any TUNED(j), `j = i` included, after the accepting edge and
`D(SETFREQ)` more edges without reset, the machine is idle in TUNED(i), the shadow of R38 has received the three words of
`Trace(SETFREQ i)` in order, and nothing else has changed but the sequencer's own registers. The shadow is the model's
choice, as in O36 (log entries 6, 7 and 20; R85, R149). -/
def Obligations.SetfreqRunsToTuned : Prop :=
  ∀ (s : State) (w : Byte), s.BeginsCommand w → opField w = 2 → (argField w).toNat ≤ 7 → s.state ≠ uninit →
    Host.Core.run core (1 + sequenceDuration s.params .sf) s = .next { s with
      state := tuned, prof := indexRow (argField w), row := indexRow (argField w), seq := 1, upc := 4
      phase := Phase.idle.bits, shreg := 0, nbits := 0, tmr := 0
      host := hostAfterBusy (sequenceDuration s.params .sf) (hostAfter true s.host)
      synth := s.synth.receiveAll (frameWords (sequenceTrace s.params (indexRow (argField w)) .sf)) }

/-- O38. SETFREQ.FC i as a whole (R107), as O37, with the seven words of `Trace(SETFREQ.FC i)` received by the shadow of R38,
which is the model's choice (log entries 6, 7 and 20; R85, R149). -/
def Obligations.SetfreqFcRunsToTuned : Prop :=
  ∀ (s : State) (w : Byte), s.BeginsCommand w → opField w = 3 → (argField w).toNat ≤ 7 → s.state ≠ uninit →
    Host.Core.run core (1 + sequenceDuration s.params .fc) s = .next { s with
      state := tuned, prof := indexRow (argField w), row := indexRow (argField w), seq := 2, upc := 9
      phase := Phase.idle.bits, shreg := 0, nbits := 0, tmr := 0
      host := hostAfterBusy (sequenceDuration s.params .fc) (hostAfter true s.host)
      synth := s.synth.receiveAll (frameWords (sequenceTrace s.params (indexRow (argField w)) .fc)) }

/-- O39. R96: a command keeps `BUSY = 1` for exactly its `D` cycles after the accepting edge and `cmd_ready = 1` follows; `D`
is 0 where no sequence starts; and its values at the defaults. -/
def Obligations.BusyForExactlyTheDuration : Prop :=
  (∀ (s : State) (w : Byte), s.BeginsCommand w →
    (∀ n, 1 ≤ n → n ≤ commandDuration s.params w s.state →
      ∃ t, Host.Core.run core n s = .next t ∧ t.busy = true ∧ t.cmdReady = false) ∧
    (∃ t, Host.Core.run core (1 + commandDuration s.params w s.state) s = .next t ∧ t.busy = false ∧ t.cmdReady = true)) ∧
  (∀ (p : Config.Params) (w : Byte) (st : BitVec 2), startsSequence w st = none → commandDuration p w st = 0) ∧
  sequenceDuration Config.defaults .init = 44276 ∧ sequenceDuration Config.defaults .sf = 11455 ∧
  sequenceDuration Config.defaults .fc = 24590

/-- O40. R97 and R76: what the serial pins show of a command is its trace. A monitor that sees only the serial pins and
`rst_n`, between frames when the command is accepted, sees exactly the frames of the trace after those it had already
seen, in order, with each word's 32 bits most significant first, `spi_le` high for at least 3 µs, and the pins still for
each gap; so the traces of successive commands are concatenated on the pins. How the monitor counts the cycles in which
the pins are still, and the final gap, is the model's choice (log entry 18). -/
def Obligations.PinsCarryTheTrace : Prop :=
  ∀ (s : State) (w : Byte) (m : Monitor), s.BeginsCommand w →
    m.last = s.pins → m.moved = false → m.bits = [] → m.leCycles = 0 →
    ∃ t m' fs, watch (1 + commandDuration s.params w s.state) s m = some (t, m') ∧ t.busy = false ∧
      m'.frames = m.frames ++ fs ∧
      conforms s.params.cycPerUs 0 (commandTrace s.params w s.state) fs m'.still = true ∧
      m'.last = t.pins ∧ m'.moved = false ∧ m'.bits = [] ∧ m'.leCycles = 0

/-- O41. R113: what the shadow of R38 (log entries 6 and 20) holds after each command has ended, for a table with the
address field of R47. "That is `P[1][k]`" holds where the shadow has kept what INIT wrote, the invariant of O51. -/
def Obligations.ShadowAfterEachCommand : Prop :=
  ∀ (s : State) (w : Byte), s.BeginsCommand w → s.params.AddressFields →
    ∃ t, Host.Core.run core (1 + commandDuration s.params w s.state) s = .next t ∧
      (∀ r, startsSequence w s.state = some (.init, r) →
        ∀ k : Fin 13, t.synth.regs[k] = s.params.profile[(1 : Fin 8)][k]) ∧
      (∀ r, startsSequence w s.state = some (.sf, r) →
        ∀ k : Fin 13, t.synth.regs[k] =
          if k.val = 0 then s.params.profile[r.toFin][k] &&& ~~~b21
          else if k.val ≤ 2 then s.params.profile[r.toFin][k] else s.synth.regs[k]) ∧
      (∀ q r, startsSequence w s.state = some (q, r) → q ≠ .init → s.ShadowHoldsTable →
        ∀ k : Fin 13, 3 ≤ k.val →
          t.synth.regs[k] = s.params.profile[(1 : Fin 8)][k] ∧
          s.params.profile[(1 : Fin 8)][k] = s.params.profile[r.toFin][k]) ∧
      (∀ r, startsSequence w s.state = some (.fc, r) →
        ∀ k : Fin 13, t.synth.regs[k] =
          if k.val ≤ 2 ∨ k.val = 4 ∨ k.val = 10 then s.params.profile[r.toFin][k] else s.synth.regs[k]) ∧
      (startsSequence w s.state = none → t.synth = s.synth)

/-! ### Whole-machine rules -/

/-- O42. From every state that meets the invariant the machine goes on: no edge stops it, so the faults the model puts where
R37 and R53 say "unreachable" are unreachable. -/
def Obligations.InvariantStatesNeverStop : Prop :=
  ∀ s : State, s.Inv → ∃ t, step s = .next t

/-- O43. Every edge keeps the invariant: R37, the place of a running sequence in its list, and the bits of a running frame. -/
def Obligations.EveryStepKeepsTheInvariant : Prop :=
  ∀ s t : State, s.Inv → step s = .next t → t.Inv

/-- O44. R37: in every state reachable from reset, with any build and any host, each of its clauses holds. -/
def Obligations.ReachableStatesAreLegal : Prop :=
  ∀ (b : Config.Build) (h : List HostAct) (n : Nat),
    ∃ t, Host.Core.run core n { State.reset with build := b, host := h } = .next t ∧
      t.state ≠ 3 ∧ t.seq ≠ 3 ∧ t.phase ≠ 7 ∧ t.err.toNat ≤ 3 ∧ (t.state ≠ tuned → t.prof = 0) ∧
      (t.phase = Phase.idle.bits → t.shreg = 0 ∧ t.nbits = 0 ∧ t.tmr = 0 ∧ t.sclk = false ∧ t.le = false) ∧
      (t.sclk = true ↔ t.phase = Phase.shi.bits) ∧ (t.le = true ↔ t.phase = Phase.leh.bits)

/-- O45. R110's table: `STATE` and `PROF` after each accepted command has ended, and the error it reports; while its sequence
runs, `STATE` and `PROF` keep their values and no command is accepted; and from any state whatever, reset returns to
UNINIT. -/
def Obligations.CommandsMoveTheStateMachineByTheTable : Prop :=
  (∀ (s : State) (w : Byte), s.BeginsCommand w →
    ∃ t, Host.Core.run core (1 + commandDuration s.params w s.state) s = .next t ∧ t.busy = false ∧
      (t.state, t.prof) = stateAfterCommand w s.state s.prof ∧
      (∀ c, errorOf w s.state = some c → t.err = (s.raiseError c).err ∧ t.multi = (s.raiseError c).multi) ∧
      (errorOf w s.state = none → opField w = 4 → t.err = 0 ∧ t.multi = false) ∧
      (errorOf w s.state = none → opField w ≠ 4 → t.err = s.err ∧ t.multi = s.multi)) ∧
  (∀ (s : State) (w : Byte), s.BeginsCommand w → ∀ n, 1 ≤ n → n ≤ commandDuration s.params w s.state →
    ∃ t, Host.Core.run core n s = .next t ∧ t.state = s.state ∧ t.prof = s.prof ∧ t.cmdReady = false ∧
      t.accepts = false) ∧
  (∀ s : State, s.portIn.rstN = false → ∃ t, step s = .next t ∧ t.state = uninit)

/-- O46. The only ways from one `STATE` to another at an edge of a state that meets the invariant (R18, R110): reset to
UNINIT; UNINIT to INITIALIZED where S_INIT ends; INITIALIZED or TUNED to TUNED where S_SF or S_FC ends. -/
def Obligations.OnlyInitLeavesUninit : Prop :=
  ∀ s t : State, s.Inv → step s = .next t → t.state ≠ s.state →
    (s.portIn.rstN = false ∧ t.state = uninit) ∨
    (s.state = uninit ∧ t.state = initialized ∧ s.seq = Seq.init.bits ∧ s.microOp = some .done) ∨
    (s.state = initialized ∧ t.state = tuned ∧ s.seq ≠ Seq.init.bits ∧ s.microOp = some .done)

/-- O47. Click suppression (R105), edge by edge: while SETFREQ's sequence runs over a table with the address field of R47, the
shadow's registers 3 to 12 do not change, and where `spi_le` rises the word the shadow commits is for register 0, 1 or 2
and has bit 21 clear if it is for register 0. The shadow, its commit at the rising edge and its address field are log
entries 6 (PRESUMED) and 20, not what a synthesizer received (R85). O54 says the rest of R105, of a whole run. -/
def Obligations.SetfreqSuppressesTheClick : Prop :=
  ∀ s t : State, s.Inv → s.params.AddressFields → s.busy = true → s.seq = Seq.sf.bits → s.portIn.rstN = true →
    step s = .next t →
    (∀ k : Fin 13, 3 ≤ k.val → t.synth.regs[k] = s.synth.regs[k]) ∧
    (s.le = false → t.le = true →
      addressField t.synth.shift ≤ 2 ∧
      (addressField t.synth.shift = 0 → t.synth.shift.getLsbD 21 = false) ∧
      ∀ k : Fin 13, k.val = addressField t.synth.shift → t.synth.regs[k] = t.synth.shift)

/-- O48. The shadow of R38 holds exactly the frame's word when `spi_le` rises, whatever it held before the frame (R83): in
every state that meets the invariant, at an edge where `spi_le` rises, all 32 bits have been clocked, the shadow's
shift register is the word of the running `WR`, and the shadow commits that word. That it commits at the rising edge, to
the register of `w[3:0]`, is log entry 6 (PRESUMED; R38, R84), and that an address of 13..15 changes nothing is log
entry 7; of a synthesizer nothing is said (log entry 20, R85). -/
def Obligations.LatchCommitsTheWholeWord : Prop :=
  ∀ s t : State, s.Inv → step s = .next t → s.le = false → t.le = true →
    s.nbits = 0 ∧ ∃ k m, s.microOp = some (.wr k m) ∧ t.synth.shift = muxWord s.params s.row k m ∧
      t.synth = s.synth.receive (muxWord s.params s.row k m)

/-- O49. Several controllers on one serial bus (R129): where two are BUSY at once the bus model stops with its own fault; where
at most one is, and no controller stops, each one takes its own step, and only the shift register of a shadow may differ,
since every shadow sees the shared clock (the shared `clk` and what the shadows see are log entry 16). -/
def Obligations.SharedBusFaultsOnConflict : Prop :=
  (∀ ss : List State, 2 ≤ (ss.filter State.busy).length → busStep ss = .fault .busConflict) ∧
  (∀ ss ts : List State, (ss.filter State.busy).length < 2 → List.Forall₂ (fun s t => step s = .next t) ss ts →
    ∃ us, busStep ss = .next us ∧
      List.Forall₂ (fun t u => ({ u with synth := t.synth } : State) = t ∧ u.synth.regs = t.synth.regs) ts us)

/-- O50. Where the model stops (log entry 10): at an edge with `rst_n = 1` it stops with a fault of its own name in exactly
three kinds of states, `PHASE = 7`, a FETCH with no entry in the list (R93), and a count that would wrap (R53). They are
not all that the spec calls unreachable: with `STATE = 3` or `ERR` 4 to 7 (R17, R18) the model goes on (log entry 11). -/
def Obligations.StopsAreTheUnreachableCases : Prop :=
  ∀ (s : State) (f : Fault), step s = .fault f ↔
    (s.portIn.rstN = true ∧
      ((f = .unreachablePhase ∧ s.phase = 7) ∨
       (f = .noMicroOp ∧ s.phase = Phase.fetch.bits ∧ s.microOp = none) ∨
       (f = .counterWrap ∧ s.tmr = 0 ∧
         ((s.phase = Phase.shi.bits ∧ s.nbits = 0) ∨
          ((s.phase = Phase.leh.bits ∨ s.phase = Phase.wait.bits) ∧ s.upc = 15)))))

/-! ### The shadow's table, and whole runs -/

/-- O51. What INIT wrote stays (R113's "That is `P[1][k]`", R105, R107): over a table with the address field of R47, every edge
of a state that meets the invariants keeps what Safety.lean says of the shadow's registers 3 to 12; and a state whose
`STATE` is UNINIT in IDLE, as after any reset edge, has it. The shadow is log entry 6 (PRESUMED), with 7 and 20. -/
def Obligations.EveryStepKeepsTheShadowsTable : Prop :=
  (∀ s t : State, s.Inv → s.params.AddressFields → s.ShadowHoldsTable → step s = .next t → t.ShadowHoldsTable) ∧
  (∀ s : State, s.phase = Phase.idle.bits → s.state = uninit → s.ShadowHoldsTable)

/-- O52. From reset, with any build that has the address field of R47 and any host: in every idle state with `STATE` not UNINIT
the shadow's registers 3 to 12 hold `P[1][k]`, which is `P[r][k]` for every row `r` (R113, R136, R46; the shadow is log
entry 6, with 7 and 20). -/
def Obligations.NoEarlierContentSurvivesInit : Prop :=
  ∀ (b : Config.Build) (h : List HostAct) (n : Nat) (t : State), b.val.AddressFields →
    Host.Core.run core n { State.reset with build := b, host := h } = .next t →
    t.busy = false → t.state ≠ uninit →
    ∀ k : Fin 13, 3 ≤ k.val → ∀ r : Fin 8, t.synth.regs[k] = b.val.profile[r][k]

/-- O53. The end of a run (R149): it is over where `PHASE = IDLE` and no act of the host's to come offers a word, so never
with `BUSY = 1`; a run that is over stays over at every edge; without a reset no register, pin or shadow changes any more
and nothing is added to the trace, so that its observation, the trace and the final `status`, is the same however long
one goes on looking. -/
def Obligations.RunThatIsOverStaysOver : Prop :=
  (∀ s : State, s.runOver = true ↔ s.phase = 0 ∧ ∀ a ∈ s.host, a.offered = none) ∧
  (∀ s : State, s.runOver = true → s.busy = false ∧ ∃ t, step s = .next t ∧ t.runOver = true) ∧
  (∀ (s : State) (n : Nat), s.runOver = true → noReset n s.host = true →
    Host.Core.run core n s = .next { s with host := hostAfterBusy n s.host } ∧ runTrace n s = []) ∧
  (∀ (s t : State) (n m : Nat) (o : Observation), observeRun n s = some o → Host.Core.run core n s = .next t →
    noReset m t.host = true → observeRun (n + m) s = some o)

/-- O54. Click suppression over a run (R105): from reset, over a table with the address field of R47, with a host that does
not reset and offers only INIT and SETFREQ words, at whatever edges. While `STATE` is UNINIT and no sequence runs, no
frame has been sent; once `STATE` is not UNINIT, the frames are INIT's thirteen, and after them only words for registers
0, 1 and 2, the register-0 ones with bit 21 clear. So exactly one word was sent for each index 3..12, and the only
register-0 word that may have bit 21 set is INIT's. (An index is read off a word's address field, R47.) -/
def Obligations.ClickIsSuppressedOverTheRun : Prop :=
  ∀ (b : Config.Build) (h : List HostAct) (n : Nat) (t : State), b.val.AddressFields →
    (∀ a ∈ h, a.keepsRunning = true) → (∀ a ∈ h, ∀ w, a.offered = some w → opField w = 1 ∨ opField w = 2) →
    Host.Core.run core n { State.reset with build := b, host := h } = .next t →
    let sent := frameWords (runTrace n { State.reset with build := b, host := h })
    (t.busy = false → t.state = uninit → sent = []) ∧
    (t.state ≠ uninit →
      (∃ rest, sent = frameWords (sequenceTrace b.val 1 .init) ++ rest ∧
        ∀ w ∈ rest, addressField w ≤ 2 ∧ (addressField w = 0 → w.getLsbD 21 = false)) ∧
      (∀ k : Fin 13, 3 ≤ k.val →
        sent.filter (fun w => addressField w == k.val) = [b.val.profile[(1 : Fin 8)][k]]) ∧
      sent.filter (fun w => addressField w == 0 && w.getLsbD 21) =
        if (b.val.profile[(1 : Fin 8)][(0 : Fin 13)]).getLsbD 21 then [b.val.profile[(1 : Fin 8)][(0 : Fin 13)]] else [])

/-- O55. The traces of commands are concatenated, and a run's observation is theirs with the final `status` (R97, R149): a
command that runs to its end adds its trace of R97 to the run's, before whatever follows; and from an idle machine with
low pins and a host that offers some words one after the other and nothing else, the run is over after the edges they
take, and its observation is their traces in order and the status word that R110, R117 and R109 give. -/
def Obligations.ObservationIsTheConcatenatedTrace : Prop :=
  (∀ (s t : State) (w : Byte) (n : Nat), s.BeginsCommand w →
    Host.Core.run core (1 + commandDuration s.params w s.state) s = .next t →
    runTrace (1 + commandDuration s.params w s.state + n) s = commandTrace s.params w s.state ++ runTrace n t) ∧
  (∀ (s : State) (ws : List Byte), s.phase = Phase.idle.bits → s.pins = Pins.quiet → s.host = ws.map .offer →
    observeRun (programDuration s.params ws s.statusFields) s =
      some ⟨programTrace s.params ws s.statusFields, (ws.foldl StatusFields.after s.statusFields).idleWord⟩)

/-- O56. What the serial pins show of a whole run is its trace, with any host, resets in the middle of frames and gaps
included (R76, R97, R138): from an idle state that meets the invariant, a monitor between frames has seen, whenever the
machine is idle again, exactly the trace's frames in order, with what resets cut short apart from them. How gaps are
counted is log entry 18, and how what a reset cuts short is shown is log entry 21. -/
def Obligations.PinsCarryTheRunsTrace : Prop :=
  ∀ (s : State) (m : Monitor) (n : Nat), s.Inv → s.busy = false → 1 ≤ n →
    m.last = s.pins → m.moved = false → m.bits = [] → m.leCycles = 0 →
    ∃ t m' fs, watch n s m = some (t, m') ∧ m'.frames = m.frames ++ fs ∧
      (t.busy = false → conforms s.params.cycPerUs 0 (runTrace n s) fs m'.still = true)
end

