-- ==== Sys2Proof/Laws/State.lean ====
section
/-! SUPPORT. What each update of the state leaves in each field: one lemma per field and update, so that no later proof
unfolds an update. -/

namespace Sys2Proof.Machine

variable (s : State)

/-! ### `passEdge` -/

@[simp] theorem State.passEdge_state (a : Bool) : (s.passEdge a).state = s.state := rfl
@[simp] theorem State.passEdge_prof (a : Bool) : (s.passEdge a).prof = s.prof := rfl
@[simp] theorem State.passEdge_row (a : Bool) : (s.passEdge a).row = s.row := rfl
@[simp] theorem State.passEdge_seq (a : Bool) : (s.passEdge a).seq = s.seq := rfl
@[simp] theorem State.passEdge_upc (a : Bool) : (s.passEdge a).upc = s.upc := rfl
@[simp] theorem State.passEdge_phase (a : Bool) : (s.passEdge a).phase = s.phase := rfl
@[simp] theorem State.passEdge_nbits (a : Bool) : (s.passEdge a).nbits = s.nbits := rfl
@[simp] theorem State.passEdge_tmr (a : Bool) : (s.passEdge a).tmr = s.tmr := rfl
@[simp] theorem State.passEdge_shreg (a : Bool) : (s.passEdge a).shreg = s.shreg := rfl
@[simp] theorem State.passEdge_sclk (a : Bool) : (s.passEdge a).sclk = s.sclk := rfl
@[simp] theorem State.passEdge_le (a : Bool) : (s.passEdge a).le = s.le := rfl
@[simp] theorem State.passEdge_err (a : Bool) : (s.passEdge a).err = s.err := rfl
@[simp] theorem State.passEdge_multi (a : Bool) : (s.passEdge a).multi = s.multi := rfl
@[simp] theorem State.passEdge_host (a : Bool) : (s.passEdge a).host = hostAfter a s.host := rfl
@[simp] theorem State.passEdge_synth (a : Bool) : (s.passEdge a).synth = s.synth := rfl
@[simp] theorem State.passEdge_build (a : Bool) : (s.passEdge a).build = s.build := rfl
@[simp] theorem State.passEdge_freeCount (a : Bool) : (s.passEdge a).freeCount = s.freeCount := rfl
@[simp] theorem State.passEdge_params (a : Bool) : (s.passEdge a).params = s.params := rfl

/-! ### `driveSclk` -/

@[simp] theorem State.driveSclk_state (l : Bool) : (s.driveSclk l).state = s.state := rfl
@[simp] theorem State.driveSclk_prof (l : Bool) : (s.driveSclk l).prof = s.prof := rfl
@[simp] theorem State.driveSclk_row (l : Bool) : (s.driveSclk l).row = s.row := rfl
@[simp] theorem State.driveSclk_seq (l : Bool) : (s.driveSclk l).seq = s.seq := rfl
@[simp] theorem State.driveSclk_upc (l : Bool) : (s.driveSclk l).upc = s.upc := rfl
@[simp] theorem State.driveSclk_phase (l : Bool) : (s.driveSclk l).phase = s.phase := rfl
@[simp] theorem State.driveSclk_nbits (l : Bool) : (s.driveSclk l).nbits = s.nbits := rfl
@[simp] theorem State.driveSclk_tmr (l : Bool) : (s.driveSclk l).tmr = s.tmr := rfl
@[simp] theorem State.driveSclk_shreg (l : Bool) : (s.driveSclk l).shreg = s.shreg := rfl
@[simp] theorem State.driveSclk_sclk (l : Bool) : (s.driveSclk l).sclk = l := rfl
@[simp] theorem State.driveSclk_le (l : Bool) : (s.driveSclk l).le = s.le := rfl
@[simp] theorem State.driveSclk_err (l : Bool) : (s.driveSclk l).err = s.err := rfl
@[simp] theorem State.driveSclk_multi (l : Bool) : (s.driveSclk l).multi = s.multi := rfl
@[simp] theorem State.driveSclk_host (l : Bool) : (s.driveSclk l).host = s.host := rfl
@[simp] theorem State.driveSclk_synth (l : Bool) : (s.driveSclk l).synth = if l && !s.sclk then s.synth.sample s.mosi else s.synth := rfl
@[simp] theorem State.driveSclk_build (l : Bool) : (s.driveSclk l).build = s.build := rfl
@[simp] theorem State.driveSclk_freeCount (l : Bool) : (s.driveSclk l).freeCount = s.freeCount := rfl
@[simp] theorem State.driveSclk_params (l : Bool) : (s.driveSclk l).params = s.params := rfl

/-! ### `driveLe` -/

@[simp] theorem State.driveLe_state (l : Bool) : (s.driveLe l).state = s.state := rfl
@[simp] theorem State.driveLe_prof (l : Bool) : (s.driveLe l).prof = s.prof := rfl
@[simp] theorem State.driveLe_row (l : Bool) : (s.driveLe l).row = s.row := rfl
@[simp] theorem State.driveLe_seq (l : Bool) : (s.driveLe l).seq = s.seq := rfl
@[simp] theorem State.driveLe_upc (l : Bool) : (s.driveLe l).upc = s.upc := rfl
@[simp] theorem State.driveLe_phase (l : Bool) : (s.driveLe l).phase = s.phase := rfl
@[simp] theorem State.driveLe_nbits (l : Bool) : (s.driveLe l).nbits = s.nbits := rfl
@[simp] theorem State.driveLe_tmr (l : Bool) : (s.driveLe l).tmr = s.tmr := rfl
@[simp] theorem State.driveLe_shreg (l : Bool) : (s.driveLe l).shreg = s.shreg := rfl
@[simp] theorem State.driveLe_sclk (l : Bool) : (s.driveLe l).sclk = s.sclk := rfl
@[simp] theorem State.driveLe_le (l : Bool) : (s.driveLe l).le = l := rfl
@[simp] theorem State.driveLe_err (l : Bool) : (s.driveLe l).err = s.err := rfl
@[simp] theorem State.driveLe_multi (l : Bool) : (s.driveLe l).multi = s.multi := rfl
@[simp] theorem State.driveLe_host (l : Bool) : (s.driveLe l).host = s.host := rfl
@[simp] theorem State.driveLe_synth (l : Bool) : (s.driveLe l).synth = if l && !s.le then s.synth.commit else s.synth := rfl
@[simp] theorem State.driveLe_build (l : Bool) : (s.driveLe l).build = s.build := rfl
@[simp] theorem State.driveLe_freeCount (l : Bool) : (s.driveLe l).freeCount = s.freeCount := rfl
@[simp] theorem State.driveLe_params (l : Bool) : (s.driveLe l).params = s.params := rfl

/-! ### `start` -/

@[simp] theorem State.start_state (q : Seq) (r : BitVec 3) : (s.start q r).state = s.state := rfl
@[simp] theorem State.start_prof (q : Seq) (r : BitVec 3) : (s.start q r).prof = s.prof := rfl
@[simp] theorem State.start_row (q : Seq) (r : BitVec 3) : (s.start q r).row = r := rfl
@[simp] theorem State.start_seq (q : Seq) (r : BitVec 3) : (s.start q r).seq = q.bits := rfl
@[simp] theorem State.start_upc (q : Seq) (r : BitVec 3) : (s.start q r).upc = 0#4 := rfl
@[simp] theorem State.start_phase (q : Seq) (r : BitVec 3) : (s.start q r).phase = Phase.fetch.bits := rfl
@[simp] theorem State.start_nbits (q : Seq) (r : BitVec 3) : (s.start q r).nbits = s.nbits := rfl
@[simp] theorem State.start_tmr (q : Seq) (r : BitVec 3) : (s.start q r).tmr = s.tmr := rfl
@[simp] theorem State.start_shreg (q : Seq) (r : BitVec 3) : (s.start q r).shreg = s.shreg := rfl
@[simp] theorem State.start_sclk (q : Seq) (r : BitVec 3) : (s.start q r).sclk = s.sclk := rfl
@[simp] theorem State.start_le (q : Seq) (r : BitVec 3) : (s.start q r).le = s.le := rfl
@[simp] theorem State.start_err (q : Seq) (r : BitVec 3) : (s.start q r).err = s.err := rfl
@[simp] theorem State.start_multi (q : Seq) (r : BitVec 3) : (s.start q r).multi = s.multi := rfl
@[simp] theorem State.start_host (q : Seq) (r : BitVec 3) : (s.start q r).host = s.host := rfl
@[simp] theorem State.start_synth (q : Seq) (r : BitVec 3) : (s.start q r).synth = s.synth := rfl
@[simp] theorem State.start_build (q : Seq) (r : BitVec 3) : (s.start q r).build = s.build := rfl
@[simp] theorem State.start_freeCount (q : Seq) (r : BitVec 3) : (s.start q r).freeCount = s.freeCount := rfl
@[simp] theorem State.start_params (q : Seq) (r : BitVec 3) : (s.start q r).params = s.params := rfl

/-! ### `enter` -/

@[simp] theorem State.enter_state (ph : Phase) (n : Nat) : (s.enter ph n).state = s.state := rfl
@[simp] theorem State.enter_prof (ph : Phase) (n : Nat) : (s.enter ph n).prof = s.prof := rfl
@[simp] theorem State.enter_row (ph : Phase) (n : Nat) : (s.enter ph n).row = s.row := rfl
@[simp] theorem State.enter_seq (ph : Phase) (n : Nat) : (s.enter ph n).seq = s.seq := rfl
@[simp] theorem State.enter_upc (ph : Phase) (n : Nat) : (s.enter ph n).upc = s.upc := rfl
@[simp] theorem State.enter_phase (ph : Phase) (n : Nat) : (s.enter ph n).phase = ph.bits := rfl
@[simp] theorem State.enter_nbits (ph : Phase) (n : Nat) : (s.enter ph n).nbits = s.nbits := rfl
@[simp] theorem State.enter_tmr (ph : Phase) (n : Nat) : (s.enter ph n).tmr = n - 1 := rfl
@[simp] theorem State.enter_shreg (ph : Phase) (n : Nat) : (s.enter ph n).shreg = s.shreg := rfl
@[simp] theorem State.enter_sclk (ph : Phase) (n : Nat) : (s.enter ph n).sclk = s.sclk := rfl
@[simp] theorem State.enter_le (ph : Phase) (n : Nat) : (s.enter ph n).le = s.le := rfl
@[simp] theorem State.enter_err (ph : Phase) (n : Nat) : (s.enter ph n).err = s.err := rfl
@[simp] theorem State.enter_multi (ph : Phase) (n : Nat) : (s.enter ph n).multi = s.multi := rfl
@[simp] theorem State.enter_host (ph : Phase) (n : Nat) : (s.enter ph n).host = s.host := rfl
@[simp] theorem State.enter_synth (ph : Phase) (n : Nat) : (s.enter ph n).synth = s.synth := rfl
@[simp] theorem State.enter_build (ph : Phase) (n : Nat) : (s.enter ph n).build = s.build := rfl
@[simp] theorem State.enter_freeCount (ph : Phase) (n : Nat) : (s.enter ph n).freeCount = s.freeCount := rfl
@[simp] theorem State.enter_params (ph : Phase) (n : Nat) : (s.enter ph n).params = s.params := rfl

/-! ### `tick` -/

@[simp] theorem State.tick_state : (s.tick).state = s.state := rfl
@[simp] theorem State.tick_prof : (s.tick).prof = s.prof := rfl
@[simp] theorem State.tick_row : (s.tick).row = s.row := rfl
@[simp] theorem State.tick_seq : (s.tick).seq = s.seq := rfl
@[simp] theorem State.tick_upc : (s.tick).upc = s.upc := rfl
@[simp] theorem State.tick_phase : (s.tick).phase = s.phase := rfl
@[simp] theorem State.tick_nbits : (s.tick).nbits = s.nbits := rfl
@[simp] theorem State.tick_tmr : (s.tick).tmr = s.tmr - 1 := rfl
@[simp] theorem State.tick_shreg : (s.tick).shreg = s.shreg := rfl
@[simp] theorem State.tick_sclk : (s.tick).sclk = s.sclk := rfl
@[simp] theorem State.tick_le : (s.tick).le = s.le := rfl
@[simp] theorem State.tick_err : (s.tick).err = s.err := rfl
@[simp] theorem State.tick_multi : (s.tick).multi = s.multi := rfl
@[simp] theorem State.tick_host : (s.tick).host = s.host := rfl
@[simp] theorem State.tick_synth : (s.tick).synth = s.synth := rfl
@[simp] theorem State.tick_build : (s.tick).build = s.build := rfl
@[simp] theorem State.tick_freeCount : (s.tick).freeCount = s.freeCount := rfl
@[simp] theorem State.tick_params : (s.tick).params = s.params := rfl

/-! ### `loadFrame` -/

@[simp] theorem State.loadFrame_state (w : Word) : (s.loadFrame w).state = s.state := rfl
@[simp] theorem State.loadFrame_prof (w : Word) : (s.loadFrame w).prof = s.prof := rfl
@[simp] theorem State.loadFrame_row (w : Word) : (s.loadFrame w).row = s.row := rfl
@[simp] theorem State.loadFrame_seq (w : Word) : (s.loadFrame w).seq = s.seq := rfl
@[simp] theorem State.loadFrame_upc (w : Word) : (s.loadFrame w).upc = s.upc := rfl
@[simp] theorem State.loadFrame_phase (w : Word) : (s.loadFrame w).phase = s.phase := rfl
@[simp] theorem State.loadFrame_nbits (w : Word) : (s.loadFrame w).nbits = 32#6 := rfl
@[simp] theorem State.loadFrame_tmr (w : Word) : (s.loadFrame w).tmr = s.tmr := rfl
@[simp] theorem State.loadFrame_shreg (w : Word) : (s.loadFrame w).shreg = w := rfl
@[simp] theorem State.loadFrame_sclk (w : Word) : (s.loadFrame w).sclk = s.sclk := rfl
@[simp] theorem State.loadFrame_le (w : Word) : (s.loadFrame w).le = s.le := rfl
@[simp] theorem State.loadFrame_err (w : Word) : (s.loadFrame w).err = s.err := rfl
@[simp] theorem State.loadFrame_multi (w : Word) : (s.loadFrame w).multi = s.multi := rfl
@[simp] theorem State.loadFrame_host (w : Word) : (s.loadFrame w).host = s.host := rfl
@[simp] theorem State.loadFrame_synth (w : Word) : (s.loadFrame w).synth = s.synth := rfl
@[simp] theorem State.loadFrame_build (w : Word) : (s.loadFrame w).build = s.build := rfl
@[simp] theorem State.loadFrame_freeCount (w : Word) : (s.loadFrame w).freeCount = s.freeCount := rfl
@[simp] theorem State.loadFrame_params (w : Word) : (s.loadFrame w).params = s.params := rfl

/-! ### `shiftOut` -/

@[simp] theorem State.shiftOut_state : (s.shiftOut).state = s.state := rfl
@[simp] theorem State.shiftOut_prof : (s.shiftOut).prof = s.prof := rfl
@[simp] theorem State.shiftOut_row : (s.shiftOut).row = s.row := rfl
@[simp] theorem State.shiftOut_seq : (s.shiftOut).seq = s.seq := rfl
@[simp] theorem State.shiftOut_upc : (s.shiftOut).upc = s.upc := rfl
@[simp] theorem State.shiftOut_phase : (s.shiftOut).phase = s.phase := rfl
@[simp] theorem State.shiftOut_nbits : (s.shiftOut).nbits = s.nbits - 1 := rfl
@[simp] theorem State.shiftOut_tmr : (s.shiftOut).tmr = s.tmr := rfl
@[simp] theorem State.shiftOut_shreg : (s.shiftOut).shreg = s.shreg <<< 1 := rfl
@[simp] theorem State.shiftOut_sclk : (s.shiftOut).sclk = s.sclk := rfl
@[simp] theorem State.shiftOut_le : (s.shiftOut).le = s.le := rfl
@[simp] theorem State.shiftOut_err : (s.shiftOut).err = s.err := rfl
@[simp] theorem State.shiftOut_multi : (s.shiftOut).multi = s.multi := rfl
@[simp] theorem State.shiftOut_host : (s.shiftOut).host = s.host := rfl
@[simp] theorem State.shiftOut_synth : (s.shiftOut).synth = s.synth := rfl
@[simp] theorem State.shiftOut_build : (s.shiftOut).build = s.build := rfl
@[simp] theorem State.shiftOut_freeCount : (s.shiftOut).freeCount = s.freeCount := rfl
@[simp] theorem State.shiftOut_params : (s.shiftOut).params = s.params := rfl

/-! ### `nextMicroOp` -/

@[simp] theorem State.nextMicroOp_state : (s.nextMicroOp).state = s.state := rfl
@[simp] theorem State.nextMicroOp_prof : (s.nextMicroOp).prof = s.prof := rfl
@[simp] theorem State.nextMicroOp_row : (s.nextMicroOp).row = s.row := rfl
@[simp] theorem State.nextMicroOp_seq : (s.nextMicroOp).seq = s.seq := rfl
@[simp] theorem State.nextMicroOp_upc : (s.nextMicroOp).upc = s.upc + 1 := rfl
@[simp] theorem State.nextMicroOp_phase : (s.nextMicroOp).phase = Phase.fetch.bits := rfl
@[simp] theorem State.nextMicroOp_nbits : (s.nextMicroOp).nbits = s.nbits := rfl
@[simp] theorem State.nextMicroOp_tmr : (s.nextMicroOp).tmr = s.tmr := rfl
@[simp] theorem State.nextMicroOp_shreg : (s.nextMicroOp).shreg = s.shreg := rfl
@[simp] theorem State.nextMicroOp_sclk : (s.nextMicroOp).sclk = s.sclk := rfl
@[simp] theorem State.nextMicroOp_le : (s.nextMicroOp).le = s.le := rfl
@[simp] theorem State.nextMicroOp_err : (s.nextMicroOp).err = s.err := rfl
@[simp] theorem State.nextMicroOp_multi : (s.nextMicroOp).multi = s.multi := rfl
@[simp] theorem State.nextMicroOp_host : (s.nextMicroOp).host = s.host := rfl
@[simp] theorem State.nextMicroOp_synth : (s.nextMicroOp).synth = s.synth := rfl
@[simp] theorem State.nextMicroOp_build : (s.nextMicroOp).build = s.build := rfl
@[simp] theorem State.nextMicroOp_freeCount : (s.nextMicroOp).freeCount = s.freeCount := rfl
@[simp] theorem State.nextMicroOp_params : (s.nextMicroOp).params = s.params := rfl

/-! ### `clearErrors` -/

@[simp] theorem State.clearErrors_state : (s.clearErrors).state = s.state := rfl
@[simp] theorem State.clearErrors_prof : (s.clearErrors).prof = s.prof := rfl
@[simp] theorem State.clearErrors_row : (s.clearErrors).row = s.row := rfl
@[simp] theorem State.clearErrors_seq : (s.clearErrors).seq = s.seq := rfl
@[simp] theorem State.clearErrors_upc : (s.clearErrors).upc = s.upc := rfl
@[simp] theorem State.clearErrors_phase : (s.clearErrors).phase = s.phase := rfl
@[simp] theorem State.clearErrors_nbits : (s.clearErrors).nbits = s.nbits := rfl
@[simp] theorem State.clearErrors_tmr : (s.clearErrors).tmr = s.tmr := rfl
@[simp] theorem State.clearErrors_shreg : (s.clearErrors).shreg = s.shreg := rfl
@[simp] theorem State.clearErrors_sclk : (s.clearErrors).sclk = s.sclk := rfl
@[simp] theorem State.clearErrors_le : (s.clearErrors).le = s.le := rfl
@[simp] theorem State.clearErrors_err : (s.clearErrors).err = 0#3 := rfl
@[simp] theorem State.clearErrors_multi : (s.clearErrors).multi = false := rfl
@[simp] theorem State.clearErrors_host : (s.clearErrors).host = s.host := rfl
@[simp] theorem State.clearErrors_synth : (s.clearErrors).synth = s.synth := rfl
@[simp] theorem State.clearErrors_build : (s.clearErrors).build = s.build := rfl
@[simp] theorem State.clearErrors_freeCount : (s.clearErrors).freeCount = s.freeCount := rfl
@[simp] theorem State.clearErrors_params : (s.clearErrors).params = s.params := rfl

/-! ### `resetRegisters` -/

@[simp] theorem State.resetRegisters_state : (s.resetRegisters).state = 0#2 := rfl
@[simp] theorem State.resetRegisters_prof : (s.resetRegisters).prof = 0#3 := rfl
@[simp] theorem State.resetRegisters_row : (s.resetRegisters).row = 0#3 := rfl
@[simp] theorem State.resetRegisters_seq : (s.resetRegisters).seq = 0#2 := rfl
@[simp] theorem State.resetRegisters_upc : (s.resetRegisters).upc = 0#4 := rfl
@[simp] theorem State.resetRegisters_phase : (s.resetRegisters).phase = 0#3 := rfl
@[simp] theorem State.resetRegisters_nbits : (s.resetRegisters).nbits = 0#6 := rfl
@[simp] theorem State.resetRegisters_tmr : (s.resetRegisters).tmr = 0 := rfl
@[simp] theorem State.resetRegisters_shreg : (s.resetRegisters).shreg = 0#32 := rfl
@[simp] theorem State.resetRegisters_sclk : (s.resetRegisters).sclk = false := rfl
@[simp] theorem State.resetRegisters_le : (s.resetRegisters).le = false := rfl
@[simp] theorem State.resetRegisters_err : (s.resetRegisters).err = 0#3 := rfl
@[simp] theorem State.resetRegisters_multi : (s.resetRegisters).multi = false := rfl
@[simp] theorem State.resetRegisters_host : (s.resetRegisters).host = s.host := rfl
@[simp] theorem State.resetRegisters_synth : (s.resetRegisters).synth = s.synth := rfl
@[simp] theorem State.resetRegisters_build : (s.resetRegisters).build = s.build := rfl
@[simp] theorem State.resetRegisters_freeCount : (s.resetRegisters).freeCount = s.freeCount := rfl
@[simp] theorem State.resetRegisters_params : (s.resetRegisters).params = s.params := rfl

/-! ### `raiseError` -/

@[simp] theorem State.raiseError_state (c : ErrCode) : (s.raiseError c).state = s.state := by
  unfold State.raiseError; split <;> rfl
@[simp] theorem State.raiseError_prof (c : ErrCode) : (s.raiseError c).prof = s.prof := by
  unfold State.raiseError; split <;> rfl
@[simp] theorem State.raiseError_row (c : ErrCode) : (s.raiseError c).row = s.row := by
  unfold State.raiseError; split <;> rfl
@[simp] theorem State.raiseError_seq (c : ErrCode) : (s.raiseError c).seq = s.seq := by
  unfold State.raiseError; split <;> rfl
@[simp] theorem State.raiseError_upc (c : ErrCode) : (s.raiseError c).upc = s.upc := by
  unfold State.raiseError; split <;> rfl
@[simp] theorem State.raiseError_phase (c : ErrCode) : (s.raiseError c).phase = s.phase := by
  unfold State.raiseError; split <;> rfl
@[simp] theorem State.raiseError_nbits (c : ErrCode) : (s.raiseError c).nbits = s.nbits := by
  unfold State.raiseError; split <;> rfl
@[simp] theorem State.raiseError_tmr (c : ErrCode) : (s.raiseError c).tmr = s.tmr := by
  unfold State.raiseError; split <;> rfl
@[simp] theorem State.raiseError_shreg (c : ErrCode) : (s.raiseError c).shreg = s.shreg := by
  unfold State.raiseError; split <;> rfl
@[simp] theorem State.raiseError_sclk (c : ErrCode) : (s.raiseError c).sclk = s.sclk := by
  unfold State.raiseError; split <;> rfl
@[simp] theorem State.raiseError_le (c : ErrCode) : (s.raiseError c).le = s.le := by
  unfold State.raiseError; split <;> rfl
@[simp] theorem State.raiseError_err (c : ErrCode) : (s.raiseError c).err = if s.err = 0#3 then c.bits else s.err := by
  unfold State.raiseError; split <;> rfl
@[simp] theorem State.raiseError_multi (c : ErrCode) : (s.raiseError c).multi = if s.err = 0#3 then s.multi else true := by
  unfold State.raiseError; split <;> rfl
@[simp] theorem State.raiseError_host (c : ErrCode) : (s.raiseError c).host = s.host := by
  unfold State.raiseError; split <;> rfl
@[simp] theorem State.raiseError_synth (c : ErrCode) : (s.raiseError c).synth = s.synth := by
  unfold State.raiseError; split <;> rfl
@[simp] theorem State.raiseError_build (c : ErrCode) : (s.raiseError c).build = s.build := by
  unfold State.raiseError; split <;> rfl
@[simp] theorem State.raiseError_freeCount (c : ErrCode) : (s.raiseError c).freeCount = s.freeCount := by
  unfold State.raiseError; split <;> rfl
@[simp] theorem State.raiseError_params (c : ErrCode) : (s.raiseError c).params = s.params := by
  unfold State.params State.raiseError; split <;> rfl

/-! ### `commit` -/

@[simp] theorem State.commit_state : (s.commit).state = if s.seq = Seq.init.bits then initialized else tuned := by
  unfold State.commit; split <;> rfl
@[simp] theorem State.commit_prof : (s.commit).prof = if s.seq = Seq.init.bits then 0#3 else s.row := by
  unfold State.commit; split <;> rfl
@[simp] theorem State.commit_row : (s.commit).row = s.row := by
  unfold State.commit; split <;> rfl
@[simp] theorem State.commit_seq : (s.commit).seq = s.seq := by
  unfold State.commit; split <;> rfl
@[simp] theorem State.commit_upc : (s.commit).upc = s.upc := by
  unfold State.commit; split <;> rfl
@[simp] theorem State.commit_phase : (s.commit).phase = Phase.idle.bits := by
  unfold State.commit; split <;> rfl
@[simp] theorem State.commit_nbits : (s.commit).nbits = s.nbits := by
  unfold State.commit; split <;> rfl
@[simp] theorem State.commit_tmr : (s.commit).tmr = s.tmr := by
  unfold State.commit; split <;> rfl
@[simp] theorem State.commit_shreg : (s.commit).shreg = s.shreg := by
  unfold State.commit; split <;> rfl
@[simp] theorem State.commit_sclk : (s.commit).sclk = s.sclk := by
  unfold State.commit; split <;> rfl
@[simp] theorem State.commit_le : (s.commit).le = s.le := by
  unfold State.commit; split <;> rfl
@[simp] theorem State.commit_err : (s.commit).err = s.err := by
  unfold State.commit; split <;> rfl
@[simp] theorem State.commit_multi : (s.commit).multi = s.multi := by
  unfold State.commit; split <;> rfl
@[simp] theorem State.commit_host : (s.commit).host = s.host := by
  unfold State.commit; split <;> rfl
@[simp] theorem State.commit_synth : (s.commit).synth = s.synth := by
  unfold State.commit; split <;> rfl
@[simp] theorem State.commit_build : (s.commit).build = s.build := by
  unfold State.commit; split <;> rfl
@[simp] theorem State.commit_freeCount : (s.commit).freeCount = s.freeCount := by
  unfold State.commit; split <;> rfl
@[simp] theorem State.commit_params : (s.commit).params = s.params := by
  unfold State.params State.commit; split <;> rfl

/-! ### `cutLatchPulse` -/

@[simp] theorem State.cutLatchPulse_state : (s.cutLatchPulse).state = s.state := by
  unfold State.cutLatchPulse; split <;> rfl
@[simp] theorem State.cutLatchPulse_prof : (s.cutLatchPulse).prof = s.prof := by
  unfold State.cutLatchPulse; split <;> rfl
@[simp] theorem State.cutLatchPulse_row : (s.cutLatchPulse).row = s.row := by
  unfold State.cutLatchPulse; split <;> rfl
@[simp] theorem State.cutLatchPulse_seq : (s.cutLatchPulse).seq = s.seq := by
  unfold State.cutLatchPulse; split <;> rfl
@[simp] theorem State.cutLatchPulse_upc : (s.cutLatchPulse).upc = s.upc := by
  unfold State.cutLatchPulse; split <;> rfl
@[simp] theorem State.cutLatchPulse_phase : (s.cutLatchPulse).phase = s.phase := by
  unfold State.cutLatchPulse; split <;> rfl
@[simp] theorem State.cutLatchPulse_nbits : (s.cutLatchPulse).nbits = s.nbits := by
  unfold State.cutLatchPulse; split <;> rfl
@[simp] theorem State.cutLatchPulse_tmr : (s.cutLatchPulse).tmr = s.tmr := by
  unfold State.cutLatchPulse; split <;> rfl
@[simp] theorem State.cutLatchPulse_shreg : (s.cutLatchPulse).shreg = s.shreg := by
  unfold State.cutLatchPulse; split <;> rfl
@[simp] theorem State.cutLatchPulse_sclk : (s.cutLatchPulse).sclk = s.sclk := by
  unfold State.cutLatchPulse; split <;> rfl
@[simp] theorem State.cutLatchPulse_le : (s.cutLatchPulse).le = s.le := by
  unfold State.cutLatchPulse; split <;> rfl
@[simp] theorem State.cutLatchPulse_err : (s.cutLatchPulse).err = s.err := by
  unfold State.cutLatchPulse; split <;> rfl
@[simp] theorem State.cutLatchPulse_multi : (s.cutLatchPulse).multi = s.multi := by
  unfold State.cutLatchPulse; split <;> rfl
@[simp] theorem State.cutLatchPulse_host : (s.cutLatchPulse).host = s.host := by
  unfold State.cutLatchPulse; split <;> rfl
@[simp] theorem State.cutLatchPulse_synth : (s.cutLatchPulse).synth = if s.le then s.synth.write (addressField s.synth.shift) (Config.freeWord s.freeCount) else s.synth := by
  unfold State.cutLatchPulse; split <;> rfl
@[simp] theorem State.cutLatchPulse_build : (s.cutLatchPulse).build = s.build := by
  unfold State.cutLatchPulse; split <;> rfl
@[simp] theorem State.cutLatchPulse_freeCount : (s.cutLatchPulse).freeCount = if s.le then s.freeCount + 1 else s.freeCount := by
  unfold State.cutLatchPulse; split <;> rfl
@[simp] theorem State.cutLatchPulse_params : (s.cutLatchPulse).params = s.params := by
  unfold State.params State.cutLatchPulse; split <;> rfl

/-! ### The output pins -/

@[simp] theorem State.pins_sclk : s.pins.sclk = s.sclk := rfl
@[simp] theorem State.pins_mosi : s.pins.mosi = s.mosi := rfl
@[simp] theorem State.pins_le : s.pins.le = s.le := rfl

/-! ### The synthesizer's shadow -/

@[simp] theorem Synth.write_shift (y : Synth) (k : Nat) (w : Word) : (y.write k w).shift = y.shift := rfl
@[simp] theorem Synth.sample_regs (y : Synth) (b : Bool) : (y.sample b).regs = y.regs := rfl
@[simp] theorem Synth.commit_shift (y : Synth) : y.commit.shift = y.shift := rfl

/-- The bit sampled last is bit 0, and every earlier one has moved up by one. -/
theorem Synth.sample_getLsbD (y : Synth) (b : Bool) (i : Nat) :
    (y.sample b).shift.getLsbD i =
      (decide (i < 32) && if i = 0 then b else y.shift.getLsbD (i - 1)) := by
  unfold Synth.sample
  rcases i with _ | i <;> cases b <;> simp [BitVec.getLsbD_shiftLeft, BitVec.ofBool]

/-- A register after a write, whatever the address. -/
theorem Synth.write_get (y : Synth) (a : Nat) (w : Word) (k : Fin 13) :
    (y.write a w).regs[k] = if a = k.val then w else y.regs[k] := by
  simp [Synth.write, Vector.getElem_setIfInBounds]

end Sys2Proof.Machine
end

