-- ==== Sys2Proof/Laws/Ops.lean ====
section
/-! SUPPORT. One lemma for each shared operation that says everything it can do, and the codes of phases and sequences. -/

namespace Sys2Proof.Machine

/-! ### Codes -/

@[simp] theorem Phase.ofBits_bits (ph : Phase) : Phase.ofBits ph.bits = some ph := by cases ph <;> rfl

@[simp] theorem Seq.ofBits_bits (q : Seq) : Seq.ofBits q.bits = some q := by cases q <;> rfl

@[simp] theorem Phase.bits_inj (a b : Phase) : a.bits = b.bits ↔ a = b := by
  cases a <;> cases b <;> decide

@[simp] theorem Seq.bits_inj (a b : Seq) : a.bits = b.bits ↔ a = b := by
  cases a <;> cases b <;> decide

theorem Phase.bits_ne_seven (ph : Phase) : ph.bits ≠ 7#3 := by cases ph <;> decide

theorem Seq.bits_ne_three (q : Seq) : q.bits ≠ 3#2 := by cases q <;> decide

/-- Every 3-bit value but 7 is the code of a phase. -/
theorem Phase.exists_of_ne_seven (b : BitVec 3) (h : b ≠ 7#3) : ∃ ph : Phase, b = ph.bits := by
  have : ∀ b : BitVec 3, b ≠ 7#3 → Phase.ofBits b ≠ none := by decide
  have inv : ∀ b : BitVec 3, ∀ ph ∈ Phase.ofBits b, b = ph.bits := by decide
  obtain ⟨ph, hp⟩ := Option.ne_none_iff_exists'.mp (this b h)
  exact ⟨ph, inv b ph hp⟩

/-- Every 2-bit value but 3 is the code of a sequence. -/
theorem Seq.exists_of_ne_three (b : BitVec 2) (h : b ≠ 3#2) : ∃ q : Seq, b = q.bits := by
  have : ∀ b : BitVec 2, b ≠ 3#2 → Seq.ofBits b ≠ none := by decide
  have inv : ∀ b : BitVec 2, ∀ q ∈ Seq.ofBits b, b = q.bits := by decide
  obtain ⟨q, hq⟩ := Option.ne_none_iff_exists'.mp (this b h)
  exact ⟨q, inv b q hq⟩

@[simp] theorem microOpAt_bits (p : Config.Params) (q : Seq) (u : BitVec 4) :
    microOpAt p q.bits u = (microOps p q)[u.toNat]? := by simp [microOpAt]

theorem ErrCode.bits_ne_zero (c : ErrCode) : c.bits ≠ 0#3 := by cases c <;> decide

theorem ErrCode.bits_le (c : ErrCode) : c.bits.toNat ≤ 3 := by cases c <;> decide

/-! ### The input port -/

@[simp] theorem hostAfter_nil (a : Bool) : hostAfter a [] = [] := rfl
@[simp] theorem hostAfter_edge (a : Bool) (p : PortIn) (h : List HostAct) : hostAfter a (.edge p :: h) = h := rfl
@[simp] theorem hostAfter_offer_accepted (w : Byte) (h : List HostAct) : hostAfter true (.offer w :: h) = h := rfl
@[simp] theorem hostAfter_offer_held (w : Byte) (h : List HostAct) :
    hostAfter false (.offer w :: h) = .offer w :: h := rfl

/-- The port depends on the host's acts alone. -/
theorem State.portIn_congr {s t : State} (h : s.host = t.host) : s.portIn = t.portIn := by
  unfold State.portIn; rw [h]

/-- A reset level comes only from an act that does not keep the machine running. -/
theorem State.portIn_rstN_of_head (s : State) (h : ∀ p, s.host.head? = some (.edge p) → p.rstN = true) :
    s.portIn.rstN = true := by
  unfold State.portIn
  split
  · rfl
  · exact h _ (by simp_all)
  · rfl

/-! ### Operations of the sequencer -/

/-- A micro-op's end answers the next FETCH, or stops where `UPC` would wrap. -/
theorem endMicroOp_eq_next {s t : State} (h : endMicroOp s = .next t) : s.upc ≠ 15#4 ∧ t = s.nextMicroOp := by
  unfold endMicroOp at h
  split at h <;> simp_all

theorem endMicroOp_of_ne {s : State} (h : s.upc ≠ 15#4) : endMicroOp s = .next s.nextMicroOp := by
  simp [endMicroOp, h]

/-- Everything a FETCH cycle can do. -/
theorem runFetch_eq_next {s t : State} (h : runFetch s = .next t) :
    (∃ k m, microOpAt s.params s.seq s.upc = some (.wr k m) ∧
      t = (s.loadFrame (muxWord s.params s.row k m)).enter .setup s.params.sclkHalf) ∨
    (∃ n, microOpAt s.params s.seq s.upc = some (.wait n) ∧ t = s.enter .wait (n * s.params.cycPerUs)) ∨
    (microOpAt s.params s.seq s.upc = some .done ∧ t = s.commit) := by
  unfold runFetch fetchWr fetchWait at h
  split at h <;> simp_all

/-- Everything a SETUP cycle can do. -/
theorem runSetup_eq_next {s t : State} (h : runSetup s = .next t) :
    (s.tmr = 0 ∧ t = (s.driveSclk true).enter .shi s.params.sclkHalf) ∨ (s.tmr ≠ 0 ∧ t = s.tick) := by
  unfold runSetup at h
  split at h <;> simp_all

/-- Everything an SHI cycle can do. -/
theorem runShi_eq_next {s t : State} (h : runShi s = .next t) :
    (s.tmr = 0 ∧ s.nbits ≠ 0#6 ∧ t = (s.driveSclk false).shiftOut.enter .slo s.params.sclkHalf) ∨
    (s.tmr ≠ 0 ∧ t = s.tick) := by
  unfold runShi at h
  split at h
  · split at h <;> simp_all
  · simp_all

/-- Everything an SLO cycle can do. -/
theorem runSlo_eq_next {s t : State} (h : runSlo s = .next t) :
    (s.tmr = 0 ∧ s.nbits = 0#6 ∧ t = (s.driveLe true).enter .leh (Config.tLeUs * s.params.cycPerUs)) ∨
    (s.tmr = 0 ∧ s.nbits ≠ 0#6 ∧ t = (s.driveSclk true).enter .shi s.params.sclkHalf) ∨
    (s.tmr ≠ 0 ∧ t = s.tick) := by
  unfold runSlo at h
  split at h
  · split at h <;> simp_all
  · simp_all

/-- Everything an LEH cycle can do. -/
theorem runLeh_eq_next {s t : State} (h : runLeh s = .next t) :
    (s.tmr = 0 ∧ s.upc ≠ 15#4 ∧ t = (s.driveLe false).nextMicroOp) ∨ (s.tmr ≠ 0 ∧ t = s.tick) := by
  unfold runLeh at h
  split at h
  · obtain ⟨h₁, h₂⟩ := endMicroOp_eq_next h
    exact .inl ⟨‹_›, by simpa using h₁, h₂⟩
  · simp_all

/-- Everything a WAIT cycle can do. -/
theorem runWait_eq_next {s t : State} (h : runWait s = .next t) :
    (s.tmr = 0 ∧ s.upc ≠ 15#4 ∧ t = s.nextMicroOp) ∨ (s.tmr ≠ 0 ∧ t = s.tick) := by
  unfold runWait at h
  split at h
  · obtain ⟨h₁, h₂⟩ := endMicroOp_eq_next h
    exact .inl ⟨‹_›, h₁, h₂⟩
  · simp_all

/-- What a cycle does, by the phase it is in. -/
theorem runPhase_of_phase {s : State} {ph : Phase} (h : s.phase = ph.bits) : runPhase s = phaseCycle ph s := by
  unfold runPhase; rw [h, Phase.ofBits_bits]

/-- A cycle that answers a next state is a cycle of some phase. -/
theorem runPhase_eq_next {s t : State} (h : runPhase s = .next t) :
    ∃ ph : Phase, s.phase = ph.bits ∧ phaseCycle ph s = .next t := by
  by_cases h7 : s.phase = 7#3
  · have : Phase.ofBits 7#3 = none := by decide
    unfold runPhase at h
    rw [h7, this] at h
    cases h
  · obtain ⟨ph, hp⟩ := Phase.exists_of_ne_seven _ h7
    exact ⟨ph, hp, by rw [← runPhase_of_phase hp]; exact h⟩

/-! ### Commands -/

/-- Everything an accepted command can do: nothing, clear the errors, raise one error, or start a sequence whose state
check it passed. -/
theorem exec_cases (i : Instr) (s : State) :
    exec i s = .next s ∨ exec i s = .next s.clearErrors ∨ (∃ c, exec i s = .next (s.raiseError c)) ∨
    (∃ q r, exec i s = .next (s.start q r) ∧
      ((q = .init ∧ s.state = uninit ∧ r = 1#3) ∨ (q ≠ .init ∧ s.state ≠ uninit))) := by
  have sw : ∀ q arg, q ≠ Seq.init → (∃ c, startSwitch q arg s = s.raiseError c) ∨
      (startSwitch q arg s = s.start q (indexRow arg) ∧ s.state ≠ uninit) := by
    intro q arg _
    unfold startSwitch
    split
    · exact .inl ⟨_, rfl⟩
    · split
      · exact .inl ⟨_, rfl⟩
      · exact .inr ⟨rfl, ‹_›⟩
  cases i with
  | nop arg => exact .inl rfl
  | init arg =>
    unfold exec execInit
    by_cases h : s.state = uninit
    · exact .inr (.inr (.inr ⟨.init, 1#3, by simp [h], .inl ⟨rfl, h, rfl⟩⟩))
    · exact .inr (.inr (.inl ⟨.state, by simp [h]⟩))
  | setfreq arg =>
    rcases sw .sf arg (by decide) with ⟨c, h⟩ | ⟨h, hs⟩
    · exact .inr (.inr (.inl ⟨c, by simp [exec, execSetfreq, h]⟩))
    · exact .inr (.inr (.inr ⟨.sf, indexRow arg, by simp only [exec, execSetfreq, h], .inr ⟨by decide, hs⟩⟩))
  | setfreqFc arg =>
    rcases sw .fc arg (by decide) with ⟨c, h⟩ | ⟨h, hs⟩
    · exact .inr (.inr (.inl ⟨c, by simp [exec, execSetfreqFc, h]⟩))
    · exact .inr (.inr (.inr ⟨.fc, indexRow arg, by simp only [exec, execSetfreqFc, h], .inr ⟨by decide, hs⟩⟩))
  | clrerr arg => exact .inr (.inl rfl)
  | setfreqRefused arg => exact .inr (.inr (.inl ⟨.arg, rfl⟩))
  | setfreqFcRefused arg => exact .inr (.inr (.inl ⟨.arg, rfl⟩))
  | reserved5 arg => exact .inr (.inr (.inl ⟨.opcode, rfl⟩))
  | reserved6to7 op arg => exact .inr (.inr (.inl ⟨.opcode, rfl⟩))
  | reserved8toF op arg => exact .inr (.inr (.inl ⟨.opcode, rfl⟩))

/-! ### One edge -/

/-- Everything one edge can do: reset, accept a command, or run a cycle of the phase it is in. -/
theorem step_cases (s : State) :
    (s.portIn.rstN = false ∧ step s = resetEdge s) ∨
    (s.portIn.rstN = true ∧ s.phase = Phase.idle.bits ∧ s.portIn.cmdValid = true ∧
      step s = exec (decodeWord s.portIn.cmdWord) (s.passEdge true)) ∨
    (s.portIn.rstN = true ∧ (s.phase = Phase.idle.bits → s.portIn.cmdValid = false) ∧
      step s = runPhase (s.passEdge false)) := by
  unfold step State.cmdReady
  cases hr : s.portIn.rstN
  · simp
  · cases hv : s.portIn.cmdValid <;> by_cases hp : s.phase = Phase.idle.bits <;> simp [hp]

/-- No edge changes the build. -/
theorem step_build {s t : State} (h : step s = .next t) : t.build = s.build := by
  rcases step_cases s with ⟨_, e⟩ | ⟨_, _, _, e⟩ | ⟨_, _, e⟩
  · rw [e] at h
    simp only [resetEdge, Host.Outcome.next.injEq] at h
    simp [← h]
  · rw [e] at h
    rcases exec_cases (decodeWord s.portIn.cmdWord) (s.passEdge true) with e | e | ⟨_, e⟩ | ⟨_, _, e, _⟩ <;>
      (rw [e] at h; cases h; simp)
  · rw [e] at h
    obtain ⟨ph, _, h⟩ := runPhase_eq_next h
    cases ph with
    | idle => cases h; simp
    | fetch => rcases runFetch_eq_next h with ⟨_, _, _, rfl⟩ | ⟨_, _, rfl⟩ | ⟨_, rfl⟩ <;> simp
    | setup => rcases runSetup_eq_next h with ⟨_, rfl⟩ | ⟨_, rfl⟩ <;> simp
    | shi => rcases runShi_eq_next h with ⟨_, _, rfl⟩ | ⟨_, rfl⟩ <;> simp
    | slo => rcases runSlo_eq_next h with ⟨_, _, rfl⟩ | ⟨_, _, rfl⟩ | ⟨_, rfl⟩ <;> simp
    | leh => rcases runLeh_eq_next h with ⟨_, _, rfl⟩ | ⟨_, rfl⟩ <;> simp
    | wait => rcases runWait_eq_next h with ⟨_, _, rfl⟩ | ⟨_, rfl⟩ <;> simp

/-! ### The build -/

theorem State.cycPerUs_pos (s : State) : 1 ≤ s.params.cycPerUs := s.build.property.1
theorem State.sclkHalf_pos (s : State) : 1 ≤ s.params.sclkHalf := s.build.property.2.1
theorem State.tFcGapUs_pos (s : State) : 1 ≤ s.params.tFcGapUs := s.build.property.2.2.1
theorem State.tFcTailUs_pos (s : State) : 1 ≤ s.params.tFcTailUs := s.build.property.2.2.2.1

/-- Every phase's load fits the timer (R32). -/
theorem Config.Params.lt_two_pow_tmrW (p : Config.Params) {n : Nat} (h : n ≤ p.longestPhase) :
    n - 1 < 2 ^ p.tmrW := by
  have : p.longestPhase - 1 < 2 ^ p.tmrW := by
    unfold Config.Params.tmrW
    exact Nat.lt_log2_self
  omega

end Sys2Proof.Machine
end

