-- ==== Sys2Proof/Laws/PerInstr.lean ====
section
/-! SUPPORT. Families of lemmas about every command as syntax: one lemma for each constructor of `Instr`. -/

namespace Sys2Proof.Laws

/-- The word of a well-formed command is in its own row of the opcode table and decodes to the command. -/
def Encoding.Statement (i : Instr) : Prop :=
  i.WellFormed → i.row.holds (encodeWord i) = true ∧ decodeWord (encodeWord i) = i

namespace Encoding

theorem nop (arg : BitVec 4) : Statement (.nop arg) := by
  unfold Statement; revert arg; decide
theorem init (arg : BitVec 4) : Statement (.init arg) := by
  unfold Statement; revert arg; decide
theorem setfreq (arg : BitVec 4) : Statement (.setfreq arg) := by
  unfold Statement; revert arg; decide
theorem setfreqFc (arg : BitVec 4) : Statement (.setfreqFc arg) := by
  unfold Statement; revert arg; decide
theorem clrerr (arg : BitVec 4) : Statement (.clrerr arg) := by
  unfold Statement; revert arg; decide
theorem setfreqRefused (arg : BitVec 4) : Statement (.setfreqRefused arg) := by
  unfold Statement; revert arg; decide
theorem setfreqFcRefused (arg : BitVec 4) : Statement (.setfreqFcRefused arg) := by
  unfold Statement; revert arg; decide
theorem reserved5 (arg : BitVec 4) : Statement (.reserved5 arg) := by
  unfold Statement; revert arg; decide
theorem reserved6to7 (op arg : BitVec 4) : Statement (.reserved6to7 op arg) := by
  unfold Statement; revert op arg; decide
theorem reserved8toF (op arg : BitVec 4) : Statement (.reserved8toF op arg) := by
  unfold Statement; revert op arg; decide

end Encoding

end Sys2Proof.Laws
end

