-- ==== Sys2Proof/Laws/Run.lean ====
section
/-! SUPPORT. Runs of many edges: how runs compose, what the host's acts are along a busy run, and the run of a timed
phase down to the cycle where its timer is 0. -/

namespace Sys2Proof.Machine

/-! ### Runs -/

@[simp] theorem run_zero (s : State) : Host.Core.run core 0 s = .next s := rfl

theorem run_succ {s t : State} (n : Nat) (h : step s = .next t) :
    Host.Core.run core (n + 1) s = Host.Core.run core n t := by
  have hc : core.step s = .next t := h
  simp only [Host.Core.run, hc]

/-- A run of `n + 1` edges that answers a next state is an edge and a run of `n`. -/
theorem run_succ_eq_next {s t : State} (n : Nat) (h : Host.Core.run core (n + 1) s = .next t) :
    ∃ u, step s = .next u ∧ Host.Core.run core n u = .next t := by
  cases hs : step s with
  | next u => exact ⟨u, rfl, by rw [← run_succ n hs]; exact h⟩
  | fault f =>
    have hc : core.step s = .fault f := hs
    simp only [Host.Core.run, hc] at h
    cases h
  | refused f =>
    have hc : core.step s = .refused f := hs
    simp only [Host.Core.run, hc] at h
    cases h

theorem run_one {s t : State} (h : step s = .next t) : Host.Core.run core 1 s = .next t := by
  rw [run_succ 0 h, run_zero]

/-- Runs compose. -/
theorem run_add (m n : Nat) {s t : State} (h : Host.Core.run core m s = .next t) :
    Host.Core.run core (m + n) s = Host.Core.run core n t := by
  induction m generalizing s with
  | zero => cases h; rw [Nat.zero_add]
  | succ m ih =>
    obtain ⟨u, hu, hr⟩ := run_succ_eq_next m h
    rw [Nat.succ_add, run_succ _ hu, ih hr]

/-- Watched runs compose. -/
theorem watch_add (m n : Nat) (s : State) (w : Monitor) {t : State} {w' : Monitor}
    (h : watch m s w = some (t, w')) : watch (m + n) s w = watch n t w' := by
  induction m generalizing s w with
  | zero => cases h; rw [Nat.zero_add]
  | succ m ih =>
    rw [Nat.succ_add]
    cases hs : step s with
    | next u => simp only [watch, hs] at h ⊢; exact ih _ _ h
    | fault f => simp only [watch, hs] at h; cases h
    | refused f => simp only [watch, hs] at h; cases h

/-! ### Traces of runs -/

@[simp] theorem runTrace_zero (s : State) : runTrace 0 s = [] := rfl

theorem runTrace_succ {s t : State} (n : Nat) (h : step s = .next t) :
    runTrace (n + 1) s = s.edgeTrace ++ runTrace n t := by
  simp only [runTrace, h]

/-- The trace of a run is the traces of its parts, one after the other. -/
theorem runTrace_add (m n : Nat) {s t : State} (h : Host.Core.run core m s = .next t) :
    runTrace (m + n) s = runTrace m s ++ runTrace n t := by
  induction m generalizing s with
  | zero => cases h; simp
  | succ m ih =>
    obtain ⟨u, hu, hr⟩ := run_succ_eq_next m h
    rw [Nat.succ_add, runTrace_succ _ hu, runTrace_succ _ hu, ih hr, List.append_assoc]

/-- In IDLE an edge adds nothing to the trace. -/
theorem edgeTrace_of_idle {s : State} (h : s.phase = Phase.idle.bits) : s.edgeTrace = [] := by
  have hf : s.inFrame = false := by simp [State.inFrame, h]
  simp [State.edgeTrace, h, hf]

/-- What the observation of a run is. -/
theorem observeRun_eq_some {n : Nat} {s : State} {o : Observation} (h : observeRun n s = some o) :
    ∃ t, Host.Core.run core n s = .next t ∧ t.runOver = true ∧ o = ⟨runTrace n s, t.status⟩ := by
  unfold observeRun at h
  split at h
  · rename_i t ht
    split at h
    · cases h; exact ⟨t, ht, ‹_›, rfl⟩
    · cases h
  · cases h

@[simp] theorem frameWords_append (xs ys : List TraceItem) :
    frameWords (xs ++ ys) = frameWords xs ++ frameWords ys := by
  induction xs with
  | nil => rfl
  | cons x xs ih => cases x <;> simp [frameWords, ih]

/-! ### Invariants of runs -/

/-- A property that every edge keeps holds after every run (an induction made once). -/
theorem run_keeps {P : State → Prop} (hP : ∀ s t, P s → step s = .next t → P t) (n : Nat) {s t : State}
    (hs : P s) (h : Host.Core.run core n s = .next t) : P t := by
  induction n generalizing s with
  | zero => cases h; exact hs
  | succ n ih =>
    obtain ⟨u, hu, hr⟩ := run_succ_eq_next n h
    exact ih (hP s u hs hu) hr

/-! ### The host along a busy run -/

@[simp] theorem hostAfterBusy_zero (h : List HostAct) : hostAfterBusy 0 h = h := rfl

theorem hostAfterBusy_succ (n : Nat) (h : List HostAct) :
    hostAfterBusy (n + 1) h = hostAfterBusy n (hostAfter false h) := rfl

theorem hostAfterBusy_add (m n : Nat) (h : List HostAct) :
    hostAfterBusy (m + n) h = hostAfterBusy n (hostAfterBusy m h) := by
  induction m generalizing h with
  | zero => rw [Nat.zero_add]; rfl
  | succ m ih => rw [Nat.succ_add, hostAfterBusy_succ, ih]; rfl

/-- A host that does not reset for `n + 1` edges does not at the coming one, nor at the `n` after it. -/
theorem noReset_succ {n : Nat} {s : State} (h : noReset (n + 1) s.host = true) :
    s.portIn.rstN = true ∧ noReset n (hostAfter false s.host) = true := by
  unfold noReset at h ⊢
  unfold State.portIn
  match hs : s.host with
  | [] => simp [PortIn.quiet]
  | .edge p :: rest =>
    rw [hs] at h
    simpa [HostAct.keepsRunning] using h
  | .offer w :: rest =>
    rw [hs] at h
    refine ⟨rfl, ?_⟩
    rw [List.all_eq_true] at h ⊢
    exact fun a ha => h a ((List.take_subset_take_left _ (Nat.le_succ n)) ha)

theorem noReset_add {m n : Nat} {h : List HostAct} (hr : noReset (m + n) h = true) :
    noReset m h = true ∧ noReset n (hostAfterBusy m h) = true := by
  induction m generalizing h with
  | zero => exact ⟨by simp [noReset], by simpa using hr⟩
  | succ m ih =>
    rw [Nat.succ_add] at hr
    have h1 := noReset_succ (s := { State.reset with host := h }) hr
    have h2 := ih h1.2
    refine ⟨?_, by rw [hostAfterBusy_succ]; exact h2.2⟩
    unfold noReset at hr ⊢
    rw [List.all_eq_true] at hr ⊢
    exact fun a ha => hr a ((List.take_subset_take_left _ (by omega)) ha)

/-! ### Busy edges -/

/-- An edge of a busy machine without reset is a cycle of its phase. -/
theorem step_of_phase {s : State} {ph : Phase} (hp : s.phase = ph.bits) (hi : ph ≠ .idle)
    (hr : s.portIn.rstN = true) : step s = phaseCycle ph (s.passEdge false) := by
  rcases step_cases s with ⟨h, _⟩ | ⟨_, h, _, _⟩ | ⟨_, _, h⟩
  · rw [h] at hr; cases hr
  · rw [hp, Phase.bits_inj] at h; exact absurd h hi
  · rw [h]; exact runPhase_of_phase hp

/-- The phases that the timer ends. -/
def Phase.timed : Phase → Bool
  | .idle => false
  | .fetch => false
  | _ => true

/-- A cycle of a timed phase with a timer that is not 0 counts down. -/
theorem phaseCycle_tick {ph : Phase} (h : ph.timed = true) {s : State} (ht : s.tmr ≠ 0) :
    phaseCycle ph s = .next s.tick := by
  cases ph <;> simp_all [Phase.timed, phaseCycle, runSetup, runShi, runSlo, runLeh, runWait]

/-- A timed phase runs `n` cycles down its timer, and nothing else changes. -/
theorem run_ticks (n : Nat) {s : State} {ph : Phase} (hp : s.phase = ph.bits) (ht : ph.timed = true)
    (hn : n ≤ s.tmr) (hr : noReset n s.host = true) :
    Host.Core.run core n s = .next { s with tmr := s.tmr - n, host := hostAfterBusy n s.host } := by
  induction n generalizing s with
  | zero => rfl
  | succ n ih =>
    obtain ⟨h1, h2⟩ := noReset_succ hr
    have hi : ph ≠ .idle := by rintro rfl; cases ht
    have hs : step s = .next (s.passEdge false).tick := by
      rw [step_of_phase hp hi h1]; exact phaseCycle_tick ht (by simp; omega)
    rw [run_succ n hs, ih (s := (s.passEdge false).tick) hp (by simp; omega) h2]
    have e : s.tmr - 1 - n = s.tmr - (n + 1) := by omega
    simp only [State.tick, State.passEdge, hostAfterBusy_succ, e]

end Sys2Proof.Machine
end

