-- ==== Sys2Proof/Tests/Slice0.lean ====
section
/-! SUPPORT. Tests of the model, with expected results from spec/95_test_vectors.md and the rules it cites, and a witness
for the hypotheses of each statement of Certificates/Slice0/Obligations.lean. -/

namespace Sys2Proof.Tests

open Sys2Proof.Machine

/-! ### WellFormed: an ill-formed term for each check -/

theorem test_illFormed_setfreq : (Instr.setfreq 8).wellFormed = false := by decide
theorem test_illFormed_setfreqFc : (Instr.setfreqFc 15).wellFormed = false := by decide
theorem test_illFormed_setfreqRefused : (Instr.setfreqRefused 7).wellFormed = false := by decide
theorem test_illFormed_setfreqFcRefused : (Instr.setfreqFcRefused 0).wellFormed = false := by decide
theorem test_illFormed_reserved6to7 : (Instr.reserved6to7 5 0).wellFormed = false := by decide
theorem test_illFormed_reserved8toF : (Instr.reserved8toF 7 0).wellFormed = false := by decide

/-! ### Decode: words written out from R64 to R69 -/

theorem test_decode_nop : decodeWord 0b00001111#8 = .nop 15 := by decide
theorem test_decode_init : decodeWord 0b00010000#8 = .init 0 := by decide
theorem test_decode_setfreq : decodeWord 0b00100111#8 = .setfreq 7 := by decide
theorem test_decode_setfreqFc : decodeWord 0b00110101#8 = .setfreqFc 5 := by decide
theorem test_decode_clrerr : decodeWord 0b01000000#8 = .clrerr 0 := by decide
theorem test_decode_setfreqRefused : decodeWord 0b00101000#8 = .setfreqRefused 8 := by decide
theorem test_decode_setfreqFcRefused : decodeWord 0b00111000#8 = .setfreqFcRefused 8 := by decide
theorem test_decode_reserved5 : decodeWord 0b01011111#8 = .reserved5 15 := by decide
theorem test_decode_reserved6to7 : decodeWord 0b01100001#8 = .reserved6to7 6 1 := by decide
theorem test_decode_reserved8toF : decodeWord 0b10000010#8 = .reserved8toF 8 2 := by decide
theorem test_decode_noWord : decode [] = .error .noWord := rfl
theorem test_tableWord_long : decodeTableWord 16 0x10 = none := by decide

/-! ### The fixture of 95_test_vectors.md, with `CYC_PER_US = 1` and `SCLK_HALF = 1` -/

/-- FIX. -/
def fixProfile : Vector (Vector Word 13) 8 :=
  Vector.ofFn fun r : Fin 8 => Vector.ofFn fun k : Fin 13 =>
    if 3 ≤ k.val then BitVec.ofNat 32 (k.val * 2 ^ 24 + k.val)
    else if k.val = 2 then BitVec.ofNat 32 (2 + r.val * 2 ^ 16)
    else if k.val = 1 then BitVec.ofNat 32 (1 + r.val * 2 ^ 20)
    else if r.val = 7 then 0x00000390#32
    else BitVec.ofNat 32 (0x00200320 + r.val * 16)

def fixParams : Config.Params := ⟨1, 1, 161, 1, fixProfile⟩

theorem fixParams_legal : fixParams.Legal := by decide

/-- An idle machine over FIX with a synthesizer of zeros and the host's acts given. -/
def idle (st : BitVec 2) (prof : BitVec 3) (host : List HostAct) : State :=
  { State.reset with
    state := st, prof := prof, host := host, build := ⟨fixParams, fixParams_legal⟩
    synth := ⟨0#32, Vector.replicate 13 0#32⟩ }

/-- A machine over FIX that runs a sequence. -/
def running (q : Seq) (row : BitVec 3) (upc : BitVec 4) (ph : Phase) : State :=
  { idle (if q = .init then uninit else initialized) 0 [] with seq := q.bits, row := row, upc := upc, phase := ph.bits }

/-- The next state of an outcome, if it is one. -/
def nextOf : Result → Option State
  | .next s => some s
  | _ => none

/-- The status word after the edge that accepts a word. -/
def statusAfter (s : State) : Option (BitVec 16) := (nextOf (step s)).map State.status

/-! ### Builds (R8, R46, L1.4(c)) -/

theorem test_build_gapZero : Config.Build.make { fixParams with tFcGapUs := 0 } = .error .fcGapZero := by rfl
theorem test_build_rowsDiffer :
    Config.Build.make { fixParams with profile := fixParams.profile.set 4 (Vector.replicate 13 0#32) } =
      .error .profileRowsDiffer := by decide

/-! ### Commands at the accepting edge (L2.3) -/

theorem test_nop : statusAfter { idle tuned 3 [.offer 0x05] with err := 2 } = some 0x020E#16 := by decide
theorem test_init_starts : statusAfter (idle uninit 0 [.offer 0x1A]) = some 0x0020#16 := by decide
theorem test_init_row : ((nextOf (step (idle uninit 0 [.offer 0x15]))).map State.row) = some 1#3 := by decide
theorem test_setfreq_sameProfile : statusAfter (idle tuned 3 [.offer 0x23]) = some 0x002E#16 := by decide
theorem test_setfreq_uninit : statusAfter (idle uninit 0 [.offer 0x22]) = some 0x0300#16 := by decide
theorem test_setfreqFc_starts :
    (nextOf (step (idle initialized 0 [.offer 0x35]))).map (fun t => (t.status, t.seq, t.row)) =
      some (0x0021#16, 2#2, 5#3) := by decide
theorem test_setfreqFc_uninit : statusAfter (idle uninit 0 [.offer 0x37]) = some 0x0300#16 := by decide
theorem test_clrerr :
    statusAfter { idle tuned 3 [.offer 0x40] with err := 3, multi := true } = some 0x000E#16 := by decide
theorem test_setfreqRefused : statusAfter (idle uninit 0 [.offer 0x29]) = some 0x0200#16 := by decide
theorem test_setfreqFcRefused : statusAfter (idle uninit 0 [.offer 0x3F]) = some 0x0200#16 := by decide
theorem test_reserved5 : statusAfter (idle uninit 0 [.offer 0x50]) = some 0x0100#16 := by decide
theorem test_reserved6to7 : statusAfter { idle tuned 3 [.offer 0x7C] with err := 2 } = some 0x0A0E#16 := by decide
theorem test_reserved8toF : statusAfter (idle uninit 0 [.offer 0xFF]) = some 0x0100#16 := by decide
theorem test_init_refused : statusAfter (idle tuned 3 [.offer 0x1F]) = some 0x030E#16 := by decide
theorem test_oldError_doesNotBlock :
    statusAfter { idle tuned 3 [.offer 0x21] with err := 1 } = some 0x012E#16 := by decide
theorem test_fetchWord :
    (nextOf (step (State.reset.withFetchWord 8 0x1F))).map State.status = some 0x0020#16 := by decide

/-! ### The multiplexer and byte order (L2.2, L1.2) -/

theorem test_clr21_only : modWord .clr21 0xFFFFFFFF#32 = 0xFFDFFFFF#32 := by decide
theorem test_set4_only : modWord .set4 0xFFFFFFEF#32 = 0xFFFFFFFF#32 := by decide
theorem test_mux_init_reg0 : muxWord fixParams 1 0 .none = 0x00200330#32 := by decide
theorem test_mux_row2_reg1 : muxWord fixParams 2 1 .none = 0x00200001#32 := by decide
theorem test_mux_row5_set4 : muxWord fixParams 5 4 .set4 = 0x04000014#32 := by decide
theorem test_mux_row0_clr21 : muxWord fixParams 0 0 .clr21 = 0x00000320#32 := by decide
theorem test_wireBytes :
    (List.range 4).map (wireByte 0x12345678#32) = [0x12#8, 0x34#8, 0x56#8, 0x78#8] := by decide
theorem test_trace_setfreq7 :
    sequenceTrace fixParams 7 .sf =
      [.frame 0x00070002#32, .frame 0x00700001#32, .frame 0x00000390#32, .gap 161] := by decide
theorem test_trace_setfreqFc5 :
    frameWords (sequenceTrace fixParams 5 .fc) =
      [0x0A00000A#32, 0x04000014#32, 0x00050002#32, 0x00500001#32, 0x00000370#32, 0x04000004#32, 0x00200370#32] := by
  decide
theorem test_durations :
    (sequenceDuration fixParams .init, sequenceDuration fixParams .sf, sequenceDuration fixParams .fc) =
      (1062, 370, 648) := by decide

/-! ### The sequencer, one edge each (R79, R80, R94, R95) -/

theorem test_fetch_wr :
    (nextOf (step (running .init 1 0 .fetch))).map (fun t => (t.shreg, t.nbits, t.phase)) =
      some (0x0C00000C#32, 32#6, 2#3) := by decide
theorem test_fetch_wait :
    (nextOf (step (running .sf 3 3 .fetch))).map (fun t => (t.tmr, t.phase)) = some (160, 6#3) := by decide
theorem test_fetch_end :
    (nextOf (step (running .sf 3 4 .fetch))).map State.status = some 0x000E#16 := by decide
theorem test_setup_rise_samples :
    (nextOf (step { running .sf 3 0 .setup with shreg := 0x80000000, nbits := 32 })).map
      (fun t => (t.sclk, t.phase, t.synth.shift)) = some (true, 3#3, 1#32) := by decide
theorem test_shi_last_bit :
    (nextOf (step { running .sf 3 0 .shi with sclk := true, shreg := 0x80000000, nbits := 1 })).map
      (fun t => (t.sclk, t.shreg, t.nbits, t.phase)) = some (false, 0#32, 0#6, 4#3) := by decide
theorem test_slo_latch_commits :
    (nextOf (step { running .sf 3 0 .slo with synth := ⟨0x00030002#32, Vector.replicate 13 0#32⟩ })).map
      (fun t => (t.le, t.phase, t.tmr, t.synth.regs[2])) = some (true, 5#3, 2, 0x00030002#32) := by decide
theorem test_leh_next :
    (nextOf (step { running .sf 3 0 .leh with le := true })).map (fun t => (t.le, t.phase, t.upc)) =
      some (false, 1#3, 1#4) := by decide

/-! ### Reset (L2.7) -/

theorem test_reset_mid_frame :
    (nextOf (step { running .init 1 0 .shi with
      sclk := true, shreg := 0x30#32, nbits := 23, err := 2, multi := true
      host := [.edge ⟨false, true, 0x10⟩, .offer 0x10] })).map
      (fun t => (t.status, t.sclk, t.shreg, t.host)) = some (0x0000#16, false, 0#32, [.offer 0x10]) := by decide
theorem test_busy_keeps_offer :
    (nextOf (step { running .sf 3 0 .setup with host := [.offer 0x10] })).map State.host = some [.offer 0x10] := by
  decide

/-! ### The end of a run and what is observed of it (R149, P4, P5) -/

theorem test_runOver_laterOffer :
    (idle tuned 3 [.edge ⟨true, false, 0⟩, .offer 0x23]).runOver = false ∧
    (idle tuned 3 [.edge ⟨true, false, 0x23⟩]).runOver = true ∧ (running .sf 3 0 .setup).runOver = false := by decide
theorem test_observe_refused :
    observeRun 1 (idle uninit 0 [.offer 0x20]) = some ⟨[], 0x0300#16⟩ := by decide
theorem test_observe_notOver : observeRun 1 (idle uninit 0 [.offer 0x10]) = none := by decide
theorem test_programTrace :
    frameWords (programTrace fixParams [0x22, 0x10, 0x10, 0x20] (idle uninit 0 []).statusFields) =
      [0x0C00000C#32, 0x0B00000B#32, 0x0A00000A#32, 0x09000009#32, 0x08000008#32, 0x07000007#32, 0x06000006#32,
       0x05000005#32, 0x04000004#32, 0x03000003#32, 0x00010002#32, 0x00100001#32, 0x00200330#32,
       0x00000002#32, 0x00000001#32, 0x00000320#32] := by decide
theorem test_fields_after :
    ([0x22, 0x10, 0x10, 0x40, 0x29, 0x70].foldl StatusFields.after (idle uninit 0 []).statusFields).idleWord =
      0x0A01#16 := by decide

/-- P4's first frame at the reset edge: in the `SHI` of its 10th bit. -/
def cutFrame : State :=
  { running .init 1 0 .shi with
    sclk := true, shreg := 0x0C00000C#32 <<< 9, nbits := 23, host := [.edge ⟨false, true, 0x10⟩, .offer 0x10] }

theorem test_cut_trace :
    cutFrame.edgeTrace = [.cut [false, false, false, false, true, true, false, false, false, false] false] := by decide
theorem test_cut_monitor :
    let m := (⟨cutFrame.pins, true, 3, List.replicate 10 true, 0, []⟩ : Monitor).see false Pins.quiet
    m.frames = [⟨3, List.replicate 10 true, 0⟩] ∧ m.bits = [] ∧ m.moved = false := by decide

/-! ### The assembler and the shared bus (R73, R129) -/

theorem test_asm_line : readLine ['S', 'e', 't', 'F', 'r', 'e', 'q', '.', 'F', 'C', ' ', '0', 'x', 'F', ';', 'a'] =
    .ok (some (.setfreqFc 15)) := by rfl
theorem test_asm_text :
    assembleText [['I', 'N', 'I', 'T'], ['s', 'e', 't', 'f', 'r', 'e', 'q', '\t', '3'], [';']] =
      .ok [0x10#8, 0x23#8] := by rfl
theorem test_bus_conflict :
    (match busStep [running .sf 3 0 .fetch, running .sf 2 0 .fetch] with
      | .fault f => decide (f = .busConflict)
      | _ => false) = true := by decide

/-! ### Witnesses: states that meet the hypotheses of the statements -/

/-- O1: a command of each check. -/
theorem witness_DecodeInvertsEncode :
    (Instr.setfreq 7).WellFormed ∧ (Instr.setfreqRefused 8).WellFormed ∧ (Instr.reserved6to7 7 0).WellFormed ∧
    (Instr.reserved8toF 8 0).WellFormed ∧ ∀ i ∈ [Instr.nop 0, Instr.reserved8toF 15 15], i.WellFormed := by decide

/-- O5: the indices where the clauses meet. -/
theorem witness_AssembledLinesDecode :
    15 < 16 ∧ 7 ≤ 15 ∧ 8 ≤ 15 ∧ 15 ≤ 15 ∧ 255 ≤ 255 ∧ 255 < 256 ∧
    assemble (.setfreq 7) = .ok 0x27#8 ∧ assemble (.setfreqFc 8) = .ok 0x38#8 ∧ assemble (.setfreq 15) = .ok 0x2F#8 :=
  ⟨by decide, by decide, by decide, by decide, by decide, by decide, rfl, rfl, rfl⟩

/-- O6, O8, O45: a reset edge, in a phase that exists and in one that does not. -/
theorem witness_ResetEdge :
    (idle tuned 3 [.edge ⟨false, true, 0x10⟩]).portIn.rstN = false ∧
    ({ idle tuned 3 [.edge ⟨false, false, 0⟩] with phase := 7 } : State).portIn.rstN = false := by decide

/-- O8: a reset edge within the latch pulse and one outside it. -/
theorem witness_ResetLeavesTheSynthesizer :
    let s := { running .sf 3 2 .leh with le := true, host := [.edge ⟨false, false, 0⟩] }
    s.portIn.rstN = false ∧ s.le = true ∧ (idle tuned 3 [.edge ⟨false, false, 0⟩]).le = false := by decide

/-- O9, O10, O13: an accepted word, from an offer and from levels driven for one edge; and an idle port. -/
theorem witness_Accepts :
    (idle uninit 0 [.offer 0x05]).portIn = ⟨true, true, 0x0#4 ++ 5#4⟩ ∧
    (idle uninit 0 [.offer 0x05]).phase = Phase.idle.bits ∧ (idle uninit 0 [.offer 0x05]).cmdReady = true ∧
    (idle uninit 0 [.edge ⟨true, true, 0x10⟩]).portIn = ⟨true, true, 0x10⟩ ∧
    (idle uninit 0 []).portIn.rstN = true ∧ (idle uninit 0 []).portIn.cmdValid = false := by decide

/-- O11: two hosts that drive the command port differently at an edge that accepts nothing, in a busy phase and where the
machine stops. -/
theorem witness_PortIsIgnoredOffTheAcceptingEdge :
    let s := running .sf 3 0 .setup
    let u : State := { s with phase := 7 }
    ({ s with host := [.offer 0x10] } : State).portIn.rstN = ({ s with host := [] } : State).portIn.rstN ∧
    ({ s with host := [.offer 0x10] } : State).accepts = false ∧ ({ s with host := [] } : State).accepts = false ∧
    (nextOf (step { s with host := [.offer 0x10] })).isSome = true ∧
    ({ u with host := [.offer 0x10] } : State).accepts = false ∧
    (match step { u with host := [.offer 0x10] } with | .fault f => decide (f = .unreachablePhase) | _ => false) = true := by
  decide

/-- O12: an offered word in a busy phase and in IDLE. -/
theorem witness_OfferedWordIsNotLost :
    (nextOf (step { running .sf 3 0 .setup with host := [.offer 0x10] })).isSome = true ∧
    (running .sf 3 0 .setup).phase ≠ Phase.idle.bits ∧
    (nextOf (step (idle uninit 0 [.offer 0x10, .offer 0x20]))).map State.host = some [.offer 0x20] := by decide

/-- O14 to O20: states and arguments at the ends of their ranges. -/
theorem witness_CommandStates :
    (idle uninit 0 []).state = uninit ∧ (idle initialized 0 []).state ≠ uninit ∧ (idle tuned 7 []).state ≠ uninit ∧
    (idle uninit 0 []).err = 0 ∧ (idle uninit 0 []).multi = false ∧ ({ idle uninit 0 [] with err := 3 } : State).err ≠ 0 ∧
    (0#4).toNat ≤ 7 ∧ (7#4).toNat ≤ 7 ∧ 8 ≤ (8#4).toNat ∧ 8 ≤ (15#4).toNat ∧
    (let s := { running .sf 3 0 .setup with host := [.offer 0x4A] }
     s.portIn = ⟨true, true, 0x4#4 ++ 10#4⟩ ∧ s.phase ≠ Phase.idle.bits ∧ (nextOf (step s)).isSome = true) := by decide

/-- O21, O23: words with each error and with none. -/
theorem witness_OneErrorInOrder :
    errorOf 0x50 uninit = some .opcode ∧ errorOf 0x28 uninit = some .arg ∧ errorOf 0x27 uninit = some .state ∧
    errorOf 0x10 tuned = some .state ∧ errorOf 0x10 uninit = none ∧ errorOf 0x4F uninit = none ∧
    opField 0x10 ≠ 4 ∧ opField 0x4F = 4 ∧ startsSequence 0x00 uninit = none ∧ startsSequence 0x20 uninit = none := by decide

/-- O22: an error and a `MULTI` that are taken back, and a sequence started over an old error. -/
theorem witness_ErrorsAreStickyAndDoNotBlock :
    (nextOf (step { idle tuned 3 [.offer 0x40] with err := 2, multi := true })).map (fun t => (t.err, t.multi)) =
      some (0#3, false) ∧
    startsSequence 0x23 tuned = some (.sf, 3) ∧ startsSequence 0x10 uninit = some (.init, 1) ∧
    startsSequence 0x37 initialized = some (.fc, 7) := by decide

/-- O26: indices where the clauses meet, and parameters a build refuses for the rows alone. -/
theorem witness_BuildsHoldLegalTables :
    13 ≤ (13#4).toNat ∧ 3 ≤ (3#4).toNat ∧ 3 ≤ (12#4).toNat ∧
    (let p := { fixParams with profile := fixParams.profile.set 4 (Vector.replicate 13 0#32) }
     1 ≤ p.cycPerUs ∧ 1 ≤ p.sclkHalf ∧ 1 ≤ p.tFcGapUs ∧ 1 ≤ p.tFcTailUs ∧ ¬ p.RowsAgree) := by decide

/-- O28, O29: each kind of micro-op in FETCH. -/
theorem witness_Fetch :
    (running .fc 5 1 .fetch).portIn.rstN = true ∧ (running .fc 5 1 .fetch).phase = Phase.fetch.bits ∧
    (running .fc 5 1 .fetch).microOp = some (.wr 4 .set4) ∧ (running .fc 5 6 .fetch).microOp = some (.wait 161) ∧
    (running .fc 5 9 .fetch).microOp = some .done ∧ (running .init 1 15 .fetch).microOp = some .done := by decide

/-- O29: an edge that changes `STATE` and `PROF`. -/
theorem witness_StateAndProfChangeOnlyAtEnd :
    (running .sf 3 4 .fetch).portIn.rstN = true ∧ (running .sf 3 4 .fetch).state ≠ tuned ∧
    (running .sf 3 4 .fetch).prof = 0 ∧
    (nextOf (step (running .sf 3 4 .fetch))).map (fun t => (t.state, t.prof)) = some (tuned, 3#3) := by decide

/-- O30, O31: each timed phase with a timer that goes on and with one that ends. -/
theorem witness_TimedPhases :
    ({ running .sf 3 3 .wait with tmr := 5 } : State).tmr ≠ 0 ∧ (running .sf 3 3 .wait).phase = Phase.wait.bits ∧
    (running .sf 3 0 .setup).tmr = 0 ∧ (running .sf 3 0 .setup).phase = Phase.setup.bits ∧
    ({ running .sf 3 0 .shi with nbits := 1 } : State).nbits ≠ 0 ∧ (running .sf 3 0 .shi).phase = Phase.shi.bits ∧
    (running .sf 3 0 .slo).nbits = 0 ∧ ({ running .sf 3 0 .slo with nbits := 31 } : State).nbits ≠ 0 ∧
    (running .sf 3 0 .slo).phase = Phase.slo.bits ∧ (running .sf 3 0 .leh).phase = Phase.leh.bits ∧
    (running .sf 3 0 .leh).upc ≠ 15 ∧ (running .init 1 14 .wait).upc ≠ 15 ∧ (running .sf 3 0 .setup).portIn.rstN = true := by
  decide

/-- O32: an edge that changes `SEQ` and `ROW`, and each way `UPC` changes. -/
theorem witness_SequencerRegistersMoveByTheirRules :
    (idle tuned 3 [.offer 0x35]).portIn.rstN = true ∧
    (nextOf (step { idle tuned 3 [.offer 0x35] with upc := 4, seq := 1, row := 3 })).map (fun t => (t.seq, t.row, t.upc)) =
      some (2#2, 5#3, 0#4) ∧
    (nextOf (step (running .sf 3 3 .wait))).map State.upc = some 4#4 := by decide

/-- O33, O34: a `WR` in FETCH with the pins low and a host that does not reset. -/
theorem witness_WriteInFetch :
    let s := { running .init 1 13 .fetch with host := [.offer 0x20] }
    s.phase = Phase.fetch.bits ∧ s.microOp = some (.wr 0 .none) ∧ s.sclk = false ∧ s.le = false ∧ s.upc ≠ 15 ∧
    noReset (wrCycles s.params) s.host = true := by decide

/-- O33: the bits where the clauses of the falling edge meet. -/
theorem witness_FrameTimingOnThePins : 30 < 31 ∧ ¬ 31 < 31 ∧ 31 < 32 := by decide

/-- O35: a `WAIT` in FETCH. -/
theorem witness_WaitKeepsThePinsStill :
    let s := { running .init 1 14 .fetch with host := [.offer 0x20] }
    1 ≤ 1 ∧ s.phase = Phase.fetch.bits ∧ s.microOp = some (.wait 1) ∧ s.upc ≠ 15 ∧
    noReset (waitCycles s.params 1) s.host = true ∧ 0 ≤ waitCycles s.params 1 := by decide

/-- O36, O39, O40, O41, O45: INIT begins. -/
theorem witness_InitBegins :
    (idle uninit 0 [.offer 0x1A, .offer 0x23]).BeginsCommand 0x1A ∧ opField 0x1A = 1 ∧
    (idle uninit 0 [.offer 0x1A, .offer 0x23]).state = uninit :=
  ⟨⟨by decide, by decide, by decide, by decide⟩, by decide, by decide⟩

/-- O37, O39, O40, O41, O45: SETFREQ begins, with the row of the current profile. -/
theorem witness_SetfreqBegins :
    (idle tuned 7 [.offer 0x27]).BeginsCommand 0x27 ∧ opField 0x27 = 2 ∧ (argField 0x27).toNat ≤ 7 ∧
    (idle tuned 7 [.offer 0x27]).state ≠ uninit :=
  ⟨⟨by decide, by decide, by decide, by decide⟩, by decide, by decide, by decide⟩

/-- O38, O39, O40, O41, O45: SETFREQ.FC begins. -/
theorem witness_SetfreqFcBegins :
    (idle initialized 0 [.offer 0x30]).BeginsCommand 0x30 ∧ opField 0x30 = 3 ∧ (argField 0x30).toNat ≤ 7 ∧
    (idle initialized 0 [.offer 0x30]).state ≠ uninit :=
  ⟨⟨by decide, by decide, by decide, by decide⟩, by decide, by decide, by decide⟩

/-- O39, O40, O41, O45: a refused command and a CLRERR begin, and the hypotheses beside `BeginsCommand`. -/
theorem witness_RefusedBegins :
    (idle uninit 0 [.offer 0x27]).BeginsCommand 0x27 ∧ (idle uninit 0 [.offer 0x4F]).BeginsCommand 0x4F ∧
    startsSequence 0x27 uninit = none ∧ fixParams.AddressFields ∧
    (let m := Monitor.start (idle uninit 0 [.offer 0x27]).pins
     m.last = (idle uninit 0 [.offer 0x27]).pins ∧ m.moved = false ∧ m.bits = [] ∧ m.leCycles = 0) :=
  ⟨⟨by decide, by decide, by decide, by decide⟩, ⟨by decide, by decide, by decide, by decide⟩, by decide, by decide,
    by decide⟩

/-- O45: there are edges between acceptance and the end of a command. -/
theorem witness_CommandsMoveTheStateMachineByTheTable :
    1 ≤ commandDuration fixParams 0x1A uninit ∧ 1 ≤ commandDuration fixParams 0x27 tuned := by decide

/-- An idle machine meets the invariant. -/
theorem idle_inv : (idle tuned 3 [.offer 0x23]).Inv :=
  ⟨⟨by decide, by decide, by decide, by decide, by decide, by decide, by decide, by decide⟩,
   ⟨by decide, by decide, by decide, fun h => absurd h (by decide), fun h => absurd h (by decide), by decide, by decide⟩,
   ⟨by decide, by decide, by decide, by decide, by decide, by decide⟩⟩

/-- SETFREQ 3's third frame, at the cycle before its latch pulse. -/
def latching : State :=
  { running .sf 3 2 .slo with synth := ⟨0x00000350#32, Vector.replicate 13 0#32⟩ }

theorem latching_inv : latching.Inv :=
  ⟨⟨by decide, by decide, by decide, by decide, by decide, by decide, by decide, by decide⟩,
   ⟨by decide, by decide, by decide, fun _ => ⟨0, .clr21, by decide⟩, fun h => absurd h (by decide), by decide, by decide⟩,
   ⟨by decide, by decide, by decide, by decide, by decide, by decide⟩⟩

/-- O42, O43: a state that meets the invariant and answers a next state. -/
theorem witness_Invariant : latching.Inv ∧ (nextOf (step latching)).isSome = true := ⟨latching_inv, by decide⟩

/-- O46: S_SF ends in a state that meets the invariant, and `STATE` changes. -/
theorem witness_OnlyInitLeavesUninit :
    (running .sf 3 4 .fetch).Inv ∧ (nextOf (step (running .sf 3 4 .fetch))).map State.state = some tuned ∧
    (running .sf 3 4 .fetch).state = initialized :=
  ⟨⟨⟨by decide, by decide, by decide, by decide, by decide, by decide, by decide, by decide⟩,
    ⟨by decide, by decide, by decide, fun h => absurd h (by decide), fun h => absurd h (by decide), by decide, by decide⟩,
    ⟨by decide, by decide, by decide, by decide, by decide, by decide⟩⟩, by decide, by decide⟩

/-- O47, O48: an edge of SETFREQ's sequence at which `spi_le` rises, with a word for register 0; register 3 is the first one
that must not change. -/
theorem witness_LatchRises :
    latching.Inv ∧ latching.params.AddressFields ∧ latching.busy = true ∧ latching.seq = Seq.sf.bits ∧
    latching.portIn.rstN = true ∧ latching.le = false ∧ (nextOf (step latching)).map State.le = some true ∧
    (nextOf (step latching)).map (fun t => addressField t.synth.shift) = some 0 ∧ 3 ≤ (3 : Fin 13).val :=
  ⟨latching_inv, by decide, by decide, by decide, by decide, by decide, by decide, by decide, by decide⟩

/-- O41, O51: an idle and a running machine over FIX whose shadow holds row 1's registers 3 to 12, in UNINIT and not, and
edges of theirs that go on. -/
def tabled (s : State) : State := { s with synth := ⟨0#32, fixProfile[(1 : Fin 8)]⟩ }

theorem witness_EveryStepKeepsTheShadowsTable :
    (tabled (idle tuned 3 [.offer 0x23])).ShadowHoldsTable ∧ (tabled latching).ShadowHoldsTable ∧
    (tabled (idle tuned 3 [.offer 0x23])).params.AddressFields ∧ (tabled (idle tuned 3 [.offer 0x23])).Inv ∧
    (nextOf (step (tabled (idle tuned 3 [.offer 0x23])))).isSome = true ∧
    startsSequence 0x23 tuned = some (.sf, 3) ∧ Seq.sf ≠ .init ∧
    (idle uninit 0 []).phase = Phase.idle.bits ∧ (idle uninit 0 []).state = uninit := by
  have hk : ∀ k : Fin 13, (tabled (idle tuned 3 [.offer 0x23])).HoldsRowOne k := by
    unfold State.HoldsRowOne; decide
  have hl : ∀ k : Fin 13, (tabled latching).HoldsRowOne k := by unfold State.HoldsRowOne; decide
  refine ⟨⟨fun _ _ k _ => hk k, fun _ _ k _ _ => hk k, fun _ _ k _ => hk k, fun _ _ k _ _ => hk k⟩,
    ⟨fun _ _ k _ => hl k, fun _ _ k _ _ => hl k, fun _ _ k _ => hl k, fun _ _ k _ _ => hl k⟩, by decide, ?_,
    by decide, by decide, by decide, by decide, by decide⟩
  exact ⟨⟨by decide, by decide, by decide, by decide, by decide, by decide, by decide, by decide⟩,
   ⟨by decide, by decide, by decide, fun h => absurd h (by decide), fun h => absurd h (by decide), by decide, by decide⟩,
   ⟨by decide, by decide, by decide, by decide, by decide, by decide⟩⟩

/-- O53: a run that is over, with an act of the host's that does not reset, and one that a reset edge follows. -/
theorem witness_RunThatIsOverStaysOver :
    (idle tuned 3 [.edge ⟨true, false, 0x23⟩]).runOver = true ∧
    noReset 1 (idle tuned 3 [.edge ⟨true, false, 0x23⟩]).host = true ∧
    (idle tuned 3 [.edge ⟨false, false, 0⟩]).runOver = true ∧
    observeRun 1 (idle uninit 0 [.offer 0x20, .edge ⟨true, false, 0⟩]) = some ⟨[], 0x0300#16⟩ := by decide

/-- O54: a host of INIT and SETFREQ words, offered and driven, with an idle edge between; and a first edge from reset. -/
theorem witness_ClickIsSuppressedOverTheRun :
    let h : List HostAct := [.edge ⟨true, true, 0x10⟩, .edge ⟨true, false, 0x70⟩, .offer 0x27]
    fixParams.AddressFields ∧ (∀ a ∈ h, a.keepsRunning = true) ∧
    h.map HostAct.offered = [some 0x10, none, some 0x27] ∧ opField 0x10 = 1 ∧ opField 0x27 = 2 ∧
    (nextOf (step { State.reset with build := ⟨fixParams, fixParams_legal⟩, host := h })).isSome = true := by decide

/-- O52, O54: from reset over FIX, INIT run to its end by a host that only offers it: the machine is idle with `STATE` not
UNINIT. (The run is INIT's 1063 edges, since nothing shorter leaves UNINIT.) -/
theorem witness_InitRunFromReset :
    let h : List HostAct := [.offer 0x10]
    fixParams.AddressFields ∧ (∀ a ∈ h, a.keepsRunning = true) ∧ (∀ a ∈ h, ∀ w, a.offered = some w → opField w = 1) ∧
    (nextOf (Host.Core.run core 1063 { State.reset with build := ⟨fixParams, fixParams_legal⟩, host := h })).map
      (fun t => (State.busy t, State.state t)) = some (false, initialized) := by
  refine ⟨by decide, by decide, ?_, by decide +kernel⟩
  intro a ha w hw
  simp only [List.mem_singleton] at ha
  subst ha
  cases hw
  decide

/-- O55: an idle machine with low pins and a host that offers a refused word and a NOP. -/
theorem witness_ObservationIsTheConcatenatedTrace :
    let s := idle uninit 0 ([0x27, 0x05].map .offer)
    s.BeginsCommand 0x27 ∧ (nextOf (step s)).isSome = true ∧ commandDuration s.params 0x27 s.state = 0 ∧
    s.phase = Phase.idle.bits ∧ s.pins = Pins.quiet ∧ s.host = [0x27, 0x05].map .offer :=
  ⟨⟨by decide, by decide, by decide, by decide⟩, by decide, by decide, by decide, by decide, by decide⟩

/-- O56: an idle machine that meets the invariant, and a monitor between frames. -/
theorem witness_PinsCarryTheRunsTrace :
    let s := idle tuned 3 [.offer 0x23]
    let m := Monitor.start s.pins
    s.Inv ∧ s.busy = false ∧ 1 ≤ 1 ∧ m.last = s.pins ∧ m.moved = false ∧ m.bits = [] ∧ m.leCycles = 0 :=
  ⟨idle_inv, by decide, by decide, by decide, by decide, by decide, by decide⟩

/-- O49: two controllers that are BUSY, and a bus with one that is. -/
theorem witness_SharedBus :
    2 ≤ ([running .sf 3 0 .setup, running .sf 2 0 .wait].filter State.busy).length ∧
    ([running .sf 3 0 .setup, idle tuned 3 []].filter State.busy).length < 2 ∧
    (nextOf (step (running .sf 3 0 .setup))).isSome = true ∧ (nextOf (step (idle tuned 3 []))).isSome = true := by decide

/-- O50: each stop. -/
theorem witness_StopsAreTheUnreachableCases :
    (match step { running .sf 3 0 .setup with phase := 7 } with | .fault f => decide (f = .unreachablePhase) | _ => false) = true ∧
    (match step (running .sf 3 5 .fetch) with | .fault f => decide (f = .noMicroOp) | _ => false) = true ∧
    (match step (running .sf 3 0 .shi) with | .fault f => decide (f = .counterWrap) | _ => false) = true ∧
    (match step (running .init 1 15 .wait) with | .fault f => decide (f = .counterWrap) | _ => false) = true := by decide

end Sys2Proof.Tests
end

section
/-! SUPPORT. The machine's invariant read phase by phase, and the proof that no edge leaves it: from a state that meets
it the coming edge answers a next state that meets it too. -/

namespace Sys2Proof.Machine

/-! ### The invariant, phase by phase -/

/-- The clauses of R37 and R27 that no phase bears on. -/
structure State.Steady (s : State) : Prop where
  state_code : s.state ≠ 3#2
  seq_code : s.seq ≠ 3#2
  err_code : s.err.toNat ≤ 3
  prof_zero : s.state ≠ tuned → s.prof = 0#3
  multi_err : s.multi = true → s.err ≠ 0#3

/-- The running sequence is one that `STATE` allows (R101, R110). -/
structure State.SeqAllowed (s : State) : Prop where
  init_state : s.seq = Seq.init.bits → s.state = uninit ∧ s.row = 1#3
  switch_state : s.seq ≠ Seq.init.bits → s.state ≠ uninit

/-- No bit of a frame is held. -/
structure State.FrameClear (s : State) : Prop where
  shreg : s.shreg = 0#32
  nbits : s.nbits = 0#6

/-- A `WR` is running, `SHREG` is what is left of its word, and the synthesizer has sampled `c` bits of it (R80, R83). -/
structure State.Sending (s : State) (c : Nat) : Prop where
  op : ∃ k m, s.microOp = some (.wr k m)
  left_over : s.shreg = s.frameWord <<< (32 - s.nbits.toNat)
  clocked : ∀ i, i < c → s.synth.shift.getLsbD i = s.frameWord.getLsbD (i + (32 - c))

/-- What a phase says of the micro-op and the frame registers. -/
def State.Stands (s : State) : Phase → Prop
  | .idle => s.FrameClear ∧ s.tmr = 0
  | .fetch => s.FrameClear ∧ s.tmr = 0 ∧ s.microOp.isSome = true
  | .setup => s.nbits = 32#6 ∧ s.Sending 0
  | .shi => 1 ≤ s.nbits.toNat ∧ s.nbits.toNat ≤ 32 ∧ s.Sending (33 - s.nbits.toNat)
  | .slo => s.nbits.toNat ≤ 31 ∧ s.Sending (32 - s.nbits.toNat)
  | .leh => s.nbits = 0#6 ∧ s.Sending 32
  | .wait => s.FrameClear ∧ ∃ t, s.microOp = some (.wait t)

/-- The invariant of a state that is in the phase `ph`. -/
structure State.InPhase (s : State) (ph : Phase) : Prop where
  phase : s.phase = ph.bits
  sclk : s.sclk = decide (ph = .shi)
  le : s.le = decide (ph = .leh)
  timer_fits : s.tmr < 2 ^ s.params.tmrW
  steady : s.Steady
  allowed : ph ≠ .idle → s.SeqAllowed
  stands : s.Stands ph

theorem State.busy_eq_of_phase {s : State} {ph : Phase} (h : s.phase = ph.bits) : s.busy = decide (ph ≠ .idle) := by
  cases ph <;> simp [State.busy, h]

theorem State.inFrame_eq_of_phase {s : State} {ph : Phase} (h : s.phase = ph.bits) :
    s.inFrame = (ph == .setup || ph == .shi || ph == .slo || ph == .leh) := by
  unfold State.inFrame
  rw [h]
  cases ph <;> rfl

theorem State.bitsClocked_eq_of_phase {s : State} {ph : Phase} (h : s.phase = ph.bits) :
    s.bitsClocked = if ph = .shi then 33 - s.nbits.toNat else 32 - s.nbits.toNat := by
  simp [State.bitsClocked, h]

/-- The invariant gives what the phase says of the micro-op and the frame registers. -/
theorem State.Inv.stands {s : State} {ph : Phase} (h : s.Inv) (hp : s.phase = ph.bits) : s.Stands ph := by
  obtain ⟨hl, hs, hf⟩ := h
  have sending : s.inFrame = true → s.Sending s.bitsClocked := fun hi =>
    ⟨hs.frame_op hi, hf.left_over hi, hf.clocked hi⟩
  rw [State.inFrame_eq_of_phase hp, State.bitsClocked_eq_of_phase hp] at sending
  cases ph with
  | idle =>
    obtain ⟨h₁, h₂, h₃, _⟩ := hl.idle_quiet hp
    exact ⟨⟨h₁, h₂⟩, h₃⟩
  | fetch =>
    obtain ⟨h₁, h₂, h₃, h₄⟩ := hs.fetch_op hp
    exact ⟨⟨h₂, h₃⟩, h₄, h₁⟩
  | setup =>
    have hn := hf.setup_bits hp
    exact ⟨hn, by simpa [hn] using sending rfl⟩
  | shi => exact ⟨(hf.shi_bits hp).1, (hf.shi_bits hp).2, sending rfl⟩
  | slo => exact ⟨hf.slo_bits hp, sending rfl⟩
  | leh =>
    have hn := hf.leh_bits hp
    exact ⟨hn, by simpa [hn] using sending rfl⟩
  | wait =>
    obtain ⟨h₁, h₂, h₃⟩ := hs.wait_op hp
    exact ⟨⟨h₂, h₃⟩, h₁⟩

/-- A state that meets the invariant is in some phase and meets that phase's part of it. -/
theorem State.Inv.exists_inPhase {s : State} (h : s.Inv) : ∃ ph, s.InPhase ph := by
  obtain ⟨ph, hp⟩ := Phase.exists_of_ne_seven _ h.legal.phase_code
  have stands := h.stands hp
  obtain ⟨hl, hs, -⟩ := h
  refine ⟨ph, hp, ?_, ?_, hs.timer_fits,
    ⟨hl.state_code, hl.seq_code, hl.err_code, hl.prof_zero, hs.multi_err⟩, fun hi => ?_, stands⟩
  · simpa [hp] using Bool.eq_iff_iff.mpr (hl.sclk_phase.trans (by simp [hp]))
  · simpa [hp] using Bool.eq_iff_iff.mpr (hl.le_phase.trans (by simp [hp]))
  · have hb : s.busy = true := by simp [State.busy_eq_of_phase hp, hi]
    exact ⟨hs.init_state hb, hs.switch_state hb⟩

/-- Conversely the part of the invariant that belongs to the phase a state is in gives all of it. -/
theorem State.InPhase.inv {s : State} {ph : Phase} (h : s.InPhase ph) : s.Inv := by
  obtain ⟨hp, hsclk, hle, htmr, hst, hal, hs⟩ := h
  have hphase : ∀ q : Phase, s.phase = q.bits → ph = q := fun q hq => by simpa [hp] using hq
  have allowed : s.busy = true → s.SeqAllowed := fun hb => hal (by simpa [State.busy_eq_of_phase hp] using hb)
  have sending : s.inFrame = true → s.Sending s.bitsClocked := by
    rw [State.inFrame_eq_of_phase hp, State.bitsClocked_eq_of_phase hp]
    intro hi
    cases ph with
    | idle | fetch | wait => cases hi
    | setup => simpa [hs.1] using hs.2
    | shi => exact hs.2.2
    | slo => exact hs.2
    | leh => simpa [hs.1] using hs.2
  exact {
    legal := {
      state_code := hst.state_code
      seq_code := hst.seq_code
      phase_code := hp ▸ ph.bits_ne_seven
      err_code := hst.err_code
      prof_zero := hst.prof_zero
      idle_quiet := fun hi => by
        obtain rfl := hphase _ hi
        exact ⟨hs.1.shreg, hs.1.nbits, hs.2, hsclk, hle⟩
      sclk_phase := by simp [hp, hsclk]
      le_phase := by simp [hp, hle] }
    inSequence := {
      timer_fits := htmr
      multi_err := hst.multi_err
      fetch_op := fun hi => by
        obtain rfl := hphase _ hi
        exact ⟨hs.2.2, hs.1.shreg, hs.1.nbits, hs.2.1⟩
      frame_op := fun hi => (sending hi).op
      wait_op := fun hi => by
        obtain rfl := hphase _ hi
        exact ⟨hs.2, hs.1.shreg, hs.1.nbits⟩
      init_state := fun hb => (allowed hb).init_state
      switch_state := fun hb => (allowed hb).switch_state }
    inFrame := {
      setup_bits := fun hi => by obtain rfl := hphase _ hi; exact hs.1
      shi_bits := fun hi => by obtain rfl := hphase _ hi; exact ⟨hs.1, hs.2.1⟩
      slo_bits := fun hi => by obtain rfl := hphase _ hi; exact hs.1
      leh_bits := fun hi => by obtain rfl := hphase _ hi; exact hs.1
      left_over := fun hi => (sending hi).left_over
      clocked := fun hi => (sending hi).clocked } }

/-! ### What the parts of the invariant depend on -/

theorem State.Steady.of_eq {s t : State} (h : s.Steady) (hstate : t.state = s.state) (hprof : t.prof = s.prof)
    (hseq : t.seq = s.seq) (herr : t.err = s.err) (hmulti : t.multi = s.multi) : t.Steady := by
  obtain ⟨h₁, h₂, h₃, h₄, h₅⟩ := h
  constructor <;> simp only [hstate, hprof, hseq, herr, hmulti] <;> assumption

theorem State.SeqAllowed.of_eq {s t : State} (h : s.SeqAllowed) (hstate : t.state = s.state) (hseq : t.seq = s.seq)
    (hrow : t.row = s.row) : t.SeqAllowed := by
  obtain ⟨h₁, h₂⟩ := h
  constructor <;> simp only [hstate, hseq, hrow] <;> assumption

theorem State.microOp_congr {s t : State} (hb : t.build = s.build) (hq : t.seq = s.seq) (hu : t.upc = s.upc) :
    t.microOp = s.microOp := by
  simp only [State.microOp, State.params, hb, hq, hu]

theorem State.frameWord_congr {s t : State} (hb : t.build = s.build) (hr : t.row = s.row) (hq : t.seq = s.seq)
    (hu : t.upc = s.upc) : t.frameWord = s.frameWord := by
  simp only [State.frameWord, State.microOp_congr hb hq hu, State.params, hb, hr]

theorem State.Sending.of_eq {s t : State} {c : Nat} (h : s.Sending c) (hb : t.build = s.build) (hr : t.row = s.row)
    (hq : t.seq = s.seq) (hu : t.upc = s.upc) (hd : t.shreg = s.shreg) (hn : t.nbits = s.nbits)
    (hy : t.synth.shift = s.synth.shift) : t.Sending c := by
  obtain ⟨h₁, h₂, h₃⟩ := h
  constructor <;> simp only [State.microOp_congr hb hq hu, State.frameWord_congr hb hr hq hu, hd, hn, hy] <;> assumption

/-- An operation that keeps the registers a phase speaks of, and does not change a timer that must be 0. -/
theorem State.Stands.of_eq {s t : State} {ph : Phase} (h : s.Stands ph) (hb : t.build = s.build) (hr : t.row = s.row)
    (hq : t.seq = s.seq) (hu : t.upc = s.upc) (hd : t.shreg = s.shreg) (hn : t.nbits = s.nbits)
    (hy : t.synth.shift = s.synth.shift) (ht : ph.timed = false → t.tmr = s.tmr) : t.Stands ph := by
  have clear : s.FrameClear → t.FrameClear := fun hc => ⟨hd.trans hc.shreg, hn.trans hc.nbits⟩
  have sending : ∀ c, s.Sending c → t.Sending c := fun c hc => hc.of_eq hb hr hq hu hd hn hy
  have hop := State.microOp_congr hb hq hu
  cases ph with
  | idle => exact ⟨clear h.1, (ht rfl).trans h.2⟩
  | fetch => exact ⟨clear h.1, (ht rfl).trans h.2.1, hop ▸ h.2.2⟩
  | setup => exact ⟨hn.trans h.1, sending _ h.2⟩
  | shi => simp only [State.Stands, hn]; exact ⟨h.1, h.2.1, sending _ h.2.2⟩
  | slo => simp only [State.Stands, hn]; exact ⟨h.1, sending _ h.2⟩
  | leh => exact ⟨hn.trans h.1, sending _ h.2⟩
  | wait => exact ⟨clear h.1, hop ▸ h.2⟩

theorem State.InPhase.passEdge {s : State} {ph : Phase} (h : s.InPhase ph) (a : Bool) : (s.passEdge a).InPhase ph where
  phase := h.phase
  sclk := h.sclk
  le := h.le
  timer_fits := h.timer_fits
  steady := h.steady.of_eq rfl rfl rfl rfl rfl
  allowed hi := (h.allowed hi).of_eq rfl rfl rfl
  stands := h.stands.of_eq rfl rfl rfl rfl rfl rfl rfl fun _ => rfl

theorem State.InPhase.tick {s : State} {ph : Phase} (h : s.InPhase ph) (hph : ph.timed = true) :
    s.tick.InPhase ph where
  phase := h.phase
  sclk := h.sclk
  le := h.le
  timer_fits := (Nat.sub_le _ _).trans_lt h.timer_fits
  steady := h.steady.of_eq rfl rfl rfl rfl rfl
  allowed hi := (h.allowed hi).of_eq rfl rfl rfl
  stands := h.stands.of_eq rfl rfl rfl rfl rfl rfl rfl fun hn => by rw [hph] at hn; cases hn

/-! ### Places in the sequence lists -/

theorem microOps_length_le (p : Config.Params) (q : Seq) : (microOps p q).length ≤ 16 := by
  cases q <;> simp [microOps]

theorem microOps_getLast? (p : Config.Params) (q : Seq) : (microOps p q).getLast? = some .done := by cases q <;> rfl

theorem microOpAt_zero_isSome (p : Config.Params) (q : Seq) : (microOpAt p q.bits 0#4).isSome = true := by
  rw [microOpAt_bits]; cases q <;> rfl

/-- A micro-op of a list, from the list it is in. -/
theorem microOpAt_eq_some {p : Config.Params} {seq : BitVec 2} {upc : BitVec 4} {op : MicroOp}
    (h : microOpAt p seq upc = some op) : ∃ q : Seq, seq = q.bits ∧ (microOps p q)[upc.toNat]? = some op := by
  by_cases h3 : seq = 3#2
  · have : Seq.ofBits 3#2 = none := by decide
    simp [microOpAt, h3, this] at h
  · obtain ⟨q, rfl⟩ := Seq.exists_of_ne_three _ h3
    exact ⟨q, rfl, by rw [← microOpAt_bits]; exact h⟩

/-- `END` is the last entry of every list, so any other micro-op has one after it and `UPC` does not wrap (R53, R93). -/
theorem microOpAt_succ_isSome {p : Config.Params} {seq : BitVec 2} {upc : BitVec 4} {op : MicroOp}
    (h : microOpAt p seq upc = some op) (hop : op ≠ .done) :
    upc ≠ 15#4 ∧ (microOpAt p seq (upc + 1)).isSome = true := by
  obtain ⟨q, rfl, hq⟩ := microOpAt_eq_some h
  obtain ⟨hlt, -⟩ := List.getElem?_eq_some_iff.mp hq
  have hlast : upc.toNat ≠ (microOps p q).length - 1 := fun he => by
    rw [he, ← List.getLast?_eq_getElem?, microOps_getLast?] at hq
    exact hop (Option.some.inj hq).symm
  have hlen := microOps_length_le p q
  have hne : upc ≠ 15#4 := by rintro rfl; simp at hlt hlast; omega
  have hadd : (upc + 1).toNat = upc.toNat + 1 := by bv_omega
  refine ⟨hne, ?_⟩
  rw [microOpAt_bits, hadd, List.getElem?_eq_getElem (by omega)]
  rfl

/-- Every wait of a list fits the timer (R32, R93). -/
theorem wait_le_longestPhase {p : Config.Params} {seq : BitVec 2} {upc : BitVec 4} {t : Nat}
    (h : microOpAt p seq upc = some (.wait t)) : t * p.cycPerUs ≤ p.longestPhase := by
  obtain ⟨q, -, hq⟩ := microOpAt_eq_some h
  have hm := List.mem_of_getElem? hq
  have ht : t = Config.tCalUs ∨ t = Config.tSettleUs ∨ t = p.tFcGapUs ∨ t = p.tFcTailUs := by
    cases q <;> simp [microOps] at hm <;> tauto
  unfold Config.Params.longestPhase
  rcases ht with rfl | rfl | rfl | rfl <;> omega

theorem sclkHalf_le_longestPhase (p : Config.Params) : p.sclkHalf ≤ p.longestPhase := le_max_left _ _

theorem tLe_le_longestPhase (p : Config.Params) : Config.tLeUs * p.cycPerUs ≤ p.longestPhase := by
  unfold Config.Params.longestPhase
  omega

/-! ### The moves between phases keep the invariant -/

theorem State.Steady.raiseError {s : State} (h : s.Steady) (c : ErrCode) : (s.raiseError c).Steady where
  state_code := by simpa using h.state_code
  seq_code := by simpa using h.seq_code
  err_code := by
    rw [State.raiseError_err]
    split
    · exact c.bits_le
    · exact h.err_code
  prof_zero := by simpa using h.prof_zero
  multi_err _ := by
    rw [State.raiseError_err]
    split
    · exact c.bits_ne_zero
    · assumption

theorem State.Steady.clearErrors {s : State} (h : s.Steady) : s.clearErrors.Steady where
  state_code := h.state_code
  seq_code := h.seq_code
  err_code := by simp
  prof_zero := h.prof_zero
  multi_err hm := by simp at hm

theorem State.InPhase.raiseError {s : State} {ph : Phase} (h : s.InPhase ph) (c : ErrCode) :
    (s.raiseError c).InPhase ph where
  phase := by simpa using h.phase
  sclk := by simpa using h.sclk
  le := by simpa using h.le
  timer_fits := by simpa using h.timer_fits
  steady := h.steady.raiseError c
  allowed hi := (h.allowed hi).of_eq (s.raiseError_state c) (s.raiseError_seq c) (s.raiseError_row c)
  stands := h.stands.of_eq (s.raiseError_build c) (s.raiseError_row c) (s.raiseError_seq c) (s.raiseError_upc c)
    (s.raiseError_shreg c) (s.raiseError_nbits c) (congrArg _ (s.raiseError_synth c)) fun _ => s.raiseError_tmr c

theorem State.InPhase.clearErrors {s : State} {ph : Phase} (h : s.InPhase ph) : s.clearErrors.InPhase ph where
  phase := h.phase
  sclk := h.sclk
  le := h.le
  timer_fits := h.timer_fits
  steady := h.steady.clearErrors
  allowed hi := (h.allowed hi).of_eq rfl rfl rfl
  stands := h.stands.of_eq rfl rfl rfl rfl rfl rfl rfl fun _ => rfl

theorem State.InPhase.start {s : State} (h : s.InPhase .idle) {q : Seq} {r : BitVec 3}
    (hq : (q = .init ∧ s.state = uninit ∧ r = 1#3) ∨ (q ≠ .init ∧ s.state ≠ uninit)) :
    (s.start q r).InPhase .fetch where
  phase := rfl
  sclk := h.sclk
  le := h.le
  timer_fits := h.timer_fits
  steady := { h.steady with seq_code := q.bits_ne_three }
  allowed _ := {
    init_state := fun hi => by simp_all
    switch_state := fun hi => by simp_all }
  stands := ⟨⟨h.stands.1.shreg, h.stands.1.nbits⟩, h.stands.2, microOpAt_zero_isSome s.params q⟩

/-- The accepting edge of any command keeps the invariant. -/
theorem exec_inv (i : Instr) {s : State} (h : s.InPhase .idle) : ∃ t, exec i s = .next t ∧ t.Inv := by
  rcases exec_cases i s with e | e | ⟨c, e⟩ | ⟨q, r, e, hq⟩
  · exact ⟨_, e, h.inv⟩
  · exact ⟨_, e, h.clearErrors.inv⟩
  · exact ⟨_, e, (h.raiseError c).inv⟩
  · exact ⟨_, e, (h.start hq).inv⟩

theorem State.InPhase.loadFrame {s : State} (h : s.InPhase .fetch) {k : BitVec 4} {m : Modifier}
    (hop : s.microOp = some (.wr k m)) :
    ((s.loadFrame (muxWord s.params s.row k m)).enter .setup s.params.sclkHalf).InPhase .setup where
  phase := rfl
  sclk := h.sclk
  le := h.le
  timer_fits := Config.Params.lt_two_pow_tmrW _ (sclkHalf_le_longestPhase _)
  steady := h.steady.of_eq rfl rfl rfl rfl rfl
  allowed _ := (h.allowed (by decide)).of_eq rfl rfl rfl
  stands := by
    set t := (s.loadFrame (muxWord s.params s.row k m)).enter .setup s.params.sclkHalf
    have hword : t.frameWord = muxWord s.params s.row k m := by
      rw [State.frameWord_congr (s := s) (t := t) rfl rfl rfl rfl]
      simp [State.frameWord, hop]
    exact ⟨rfl, ⟨k, m, hop⟩, by simp [hword, t], fun i hi => absurd hi (Nat.not_lt_zero i)⟩

theorem State.InPhase.beginWait {s : State} (h : s.InPhase .fetch) {t : Nat} (hop : s.microOp = some (.wait t)) :
    (s.enter .wait (t * s.params.cycPerUs)).InPhase .wait where
  phase := rfl
  sclk := h.sclk
  le := h.le
  timer_fits := Config.Params.lt_two_pow_tmrW _ (wait_le_longestPhase hop)
  steady := h.steady.of_eq rfl rfl rfl rfl rfl
  allowed _ := (h.allowed (by decide)).of_eq rfl rfl rfl
  stands := ⟨⟨h.stands.1.shreg, h.stands.1.nbits⟩, t, hop⟩

/-- `commit()` leaves `PROF` 0 unless it goes to TUNED (R19, R95). -/
theorem State.commit_prof_zero (s : State) (h : s.commit.state ≠ tuned) : s.commit.prof = 0#3 := by
  rw [State.commit_state] at h
  rw [State.commit_prof]
  split
  · rfl
  · simp_all

theorem State.Steady.commit {s : State} (h : s.Steady) : s.commit.Steady where
  state_code := by rw [State.commit_state]; split <;> decide
  seq_code := by simpa using h.seq_code
  err_code := by simpa using h.err_code
  prof_zero := s.commit_prof_zero
  multi_err := by simpa using h.multi_err

theorem State.InPhase.commit {s : State} (h : s.InPhase .fetch) : s.commit.InPhase .idle where
  phase := by simp
  sclk := by simpa using h.sclk
  le := by simpa using h.le
  timer_fits := by simpa using h.timer_fits
  steady := h.steady.commit
  allowed hi := absurd rfl hi
  stands := ⟨⟨by simpa using h.stands.1.shreg, by simpa using h.stands.1.nbits⟩, by simpa using h.stands.2.1⟩

/-- A rising `spi_sclk` edge samples the next bit of the running frame (R77, R80). -/
theorem State.Sending.driveSclk_true {s : State} {c : Nat} (h : s.Sending c) (hlow : s.sclk = false) (hc : c < 32)
    (hn : s.nbits.toNat = 32 - c) : (s.driveSclk true).Sending (c + 1) where
  op := h.op
  left_over := h.left_over
  clocked i hi := by
    have hmosi : s.mosi = s.frameWord.getLsbD (31 - c) := by
      rw [State.mosi, h.left_over, BitVec.getLsbD_shiftLeft, hn]
      have e : 32 - (32 - c) = c := by omega
      simp [e]
      omega
    have hword : (s.driveSclk true).frameWord = s.frameWord := State.frameWord_congr rfl rfl rfl rfl
    rw [hword, State.driveSclk_synth, hlow]
    simp only [Bool.not_false, Bool.and_self, if_true, Synth.sample_getLsbD]
    rcases i with _ | i
    · simp [hmosi]
    · have hb := h.clocked i (by omega)
      have e : i + (32 - c) = i + 1 + (32 - (c + 1)) := by omega
      simp [hb, e]
      omega

/-- SETUP and SLO end the same way: the clock rises on the next bit (R80). -/
theorem State.InPhase.raiseClock {s : State} {ph : Phase} {c : Nat} (h : s.InPhase ph) (hi : ph ≠ .idle)
    (hshi : ph ≠ .shi) (hleh : ph ≠ .leh) (hsend : s.Sending c) (hc : c < 32) (hn : s.nbits.toNat = 32 - c) :
    ((s.driveSclk true).enter .shi s.params.sclkHalf).InPhase .shi where
  phase := rfl
  sclk := rfl
  le := by simpa [hleh] using h.le
  timer_fits := Config.Params.lt_two_pow_tmrW _ (sclkHalf_le_longestPhase _)
  steady := h.steady.of_eq rfl rfl rfl rfl rfl
  allowed _ := (h.allowed hi).of_eq rfl rfl rfl
  stands := by
    have hlow : s.sclk = false := by simpa [hshi] using h.sclk
    set t := (s.driveSclk true).enter .shi s.params.sclkHalf
    have hs : t.Sending (c + 1) := (hsend.driveSclk_true hlow hc hn).of_eq rfl rfl rfl rfl rfl rfl rfl
    have hn' : t.nbits.toNat = 32 - c := hn
    have e : 33 - t.nbits.toNat = c + 1 := by omega
    exact ⟨by omega, by omega, e ▸ hs⟩

/-- A falling `spi_sclk` edge moves the next bit of the running frame to the pin (R80). -/
theorem State.Sending.shiftOut {s : State} {c : Nat} (h : s.Sending c) (h1 : 1 ≤ s.nbits.toNat)
    (h32 : s.nbits.toNat ≤ 32) : s.shiftOut.Sending c where
  op := h.op
  left_over := by
    have hn : (s.nbits - 1).toNat = s.nbits.toNat - 1 := by bv_omega
    have e : 32 - (s.nbits.toNat - 1) = 32 - s.nbits.toNat + 1 := by omega
    rw [State.shiftOut_shreg, h.left_over, State.shiftOut_nbits, hn, e, BitVec.shiftLeft_add]
    rfl
  clocked := h.clocked

theorem State.InPhase.lowerClock {s : State} (h : s.InPhase .shi) :
    ((s.driveSclk false).shiftOut.enter .slo s.params.sclkHalf).InPhase .slo where
  phase := rfl
  sclk := rfl
  le := h.le
  timer_fits := Config.Params.lt_two_pow_tmrW _ (sclkHalf_le_longestPhase _)
  steady := h.steady.of_eq rfl rfl rfl rfl rfl
  allowed _ := (h.allowed (by decide)).of_eq rfl rfl rfl
  stands := by
    obtain ⟨h1, h32, hsend⟩ := h.stands
    set t := (s.driveSclk false).shiftOut.enter .slo s.params.sclkHalf
    have hs : t.Sending (33 - s.nbits.toNat) := (hsend.shiftOut h1 h32).of_eq rfl rfl rfl rfl rfl rfl rfl
    have hn : t.nbits.toNat = s.nbits.toNat - 1 := show (s.nbits - 1).toNat = _ by bv_omega
    have e : 32 - t.nbits.toNat = 33 - s.nbits.toNat := by omega
    exact ⟨by omega, e ▸ hs⟩

theorem State.InPhase.raiseLatch {s : State} (h : s.InPhase .slo) (hn : s.nbits = 0#6) :
    ((s.driveLe true).enter .leh (Config.tLeUs * s.params.cycPerUs)).InPhase .leh where
  phase := rfl
  sclk := h.sclk
  le := rfl
  timer_fits := Config.Params.lt_two_pow_tmrW _ (tLe_le_longestPhase _)
  steady := h.steady.of_eq rfl rfl rfl rfl rfl
  allowed _ := (h.allowed (by decide)).of_eq rfl rfl rfl
  stands := by
    have hsend : s.Sending 32 := by simpa [hn] using h.stands.2
    refine ⟨hn, hsend.of_eq rfl rfl rfl rfl rfl rfl ?_⟩
    rw [State.enter_synth, State.driveLe_synth]
    split <;> rfl

/-- After 32 shifts nothing of the word is left in `SHREG`. -/
theorem State.Sending.frameClear {s : State} {c : Nat} (h : s.Sending c) (hn : s.nbits = 0#6) : s.FrameClear :=
  ⟨by rw [h.left_over, hn]; exact BitVec.shiftLeft_eq_zero (le_refl _), hn⟩

/-- The end of a micro-op that is not `END`, with the pins low and no bit held: the next one is fetched. -/
theorem State.nextMicroOp_inPhase {s : State} {op : MicroOp} (hsclk : s.sclk = false) (hle : s.le = false)
    (ht : s.tmr = 0) (hsteady : s.Steady) (hallowed : s.SeqAllowed) (hclear : s.FrameClear)
    (hop : s.microOp = some op) (hne : op ≠ .done) : s.nextMicroOp.InPhase .fetch where
  phase := rfl
  sclk := hsclk
  le := hle
  timer_fits := show s.tmr < _ from ht ▸ Nat.two_pow_pos _
  steady := hsteady.of_eq rfl rfl rfl rfl rfl
  allowed _ := hallowed.of_eq rfl rfl rfl
  stands := ⟨⟨hclear.shreg, hclear.nbits⟩, ht, (microOpAt_succ_isSome hop hne).2⟩

theorem State.InPhase.endWrite {s : State} (h : s.InPhase .leh) (ht : s.tmr = 0) :
    (s.driveLe false).nextMicroOp.InPhase .fetch := by
  obtain ⟨hn, hsend⟩ := h.stands
  obtain ⟨k, m, hop⟩ := hsend.op
  have hclear := hsend.frameClear hn
  exact State.nextMicroOp_inPhase h.sclk rfl ht (h.steady.of_eq rfl rfl rfl rfl rfl)
    ((h.allowed (by decide)).of_eq rfl rfl rfl) ⟨hclear.shreg, hclear.nbits⟩ hop (by simp)

theorem State.InPhase.endWait {s : State} (h : s.InPhase .wait) (ht : s.tmr = 0) :
    s.nextMicroOp.InPhase .fetch := by
  obtain ⟨hclear, t, hop⟩ := h.stands
  exact State.nextMicroOp_inPhase h.sclk h.le ht h.steady (h.allowed (by decide)) hclear hop (by simp)

/-- From a state that meets the invariant every phase's cycle answers a next state that meets it. -/
theorem phaseCycle_inv {s : State} {ph : Phase} (h : s.InPhase ph) : ∃ t, phaseCycle ph s = .next t ∧ t.Inv := by
  by_cases hgo : ph.timed = true ∧ s.tmr ≠ 0
  · exact ⟨_, phaseCycle_tick hgo.1 hgo.2, (h.tick hgo.1).inv⟩
  have htmr : ph.timed = true → s.tmr = 0 := fun ht => by simpa [ht] using hgo
  cases ph with
  | idle => exact ⟨s, rfl, h.inv⟩
  | fetch =>
    obtain ⟨op, hop⟩ := Option.isSome_iff_exists.mp h.stands.2.2
    have hop' : microOpAt s.params s.seq s.upc = some op := hop
    cases op with
    | wr k m => exact ⟨_, by simp only [phaseCycle, runFetch, hop', fetchWr], (h.loadFrame hop).inv⟩
    | wait t => exact ⟨_, by simp only [phaseCycle, runFetch, hop', fetchWait], (h.beginWait hop).inv⟩
    | done => exact ⟨_, by simp only [phaseCycle, runFetch, hop'], h.commit.inv⟩
  | setup =>
    obtain ⟨hn, hsend⟩ := h.stands
    exact ⟨_, by simp only [phaseCycle, runSetup, htmr rfl, if_true],
      (h.raiseClock (by decide) (by decide) (by decide) hsend (by decide) (by simp [hn])).inv⟩
  | shi =>
    have hn : s.nbits ≠ 0#6 := fun hn => by simpa [hn] using h.stands.1
    exact ⟨_, by simp only [phaseCycle, runShi, htmr rfl, hn, if_true, if_false], h.lowerClock.inv⟩
  | slo =>
    obtain ⟨h31, hsend⟩ := h.stands
    by_cases hn : s.nbits = 0#6
    · exact ⟨_, by simp only [phaseCycle, runSlo, htmr rfl, hn, if_true], (h.raiseLatch hn).inv⟩
    · have hpos : s.nbits.toNat ≠ 0 := by bv_omega
      exact ⟨_, by simp only [phaseCycle, runSlo, htmr rfl, hn, if_true, if_false],
        (h.raiseClock (by decide) (by decide) (by decide) hsend (by omega) (by omega)).inv⟩
  | leh =>
    obtain ⟨k, m, hop⟩ := h.stands.2.op
    have hupc := (microOpAt_succ_isSome hop (by simp)).1
    exact ⟨_, by simp only [phaseCycle, runLeh, htmr rfl, if_true]; exact endMicroOp_of_ne hupc,
      (h.endWrite (htmr rfl)).inv⟩
  | wait =>
    obtain ⟨-, t, hop⟩ := h.stands
    have hupc := (microOpAt_succ_isSome hop (by simp)).1
    exact ⟨_, by simp only [phaseCycle, runWait, htmr rfl, if_true]; exact endMicroOp_of_ne hupc,
      (h.endWait (htmr rfl)).inv⟩

/-- The registers at their values of R134 meet the invariant, whatever the rest of the state holds. -/
theorem resetRegisters_inv (s : State) : s.resetRegisters.Inv :=
  State.InPhase.inv (ph := .idle) {
    phase := rfl
    sclk := rfl
    le := rfl
    timer_fits := Nat.two_pow_pos _
    steady := ⟨by simp, by simp, by simp, fun _ => rfl, fun h => by cases h⟩
    allowed := fun h => absurd rfl h
    stands := ⟨⟨rfl, rfl⟩, rfl⟩ }

/-! ### Every edge, and every run from reset -/

/-- The invariant does not speak of the host's acts. -/
theorem State.Inv.passEdge {s : State} (h : s.Inv) (a : Bool) : (s.passEdge a).Inv := by
  obtain ⟨ph, h⟩ := h.exists_inPhase
  exact (h.passEdge a).inv

/-- From a state that meets the invariant the coming edge answers a next state that meets it (R37, R53). -/
theorem step_inv {s : State} (h : s.Inv) : ∃ t, step s = .next t ∧ t.Inv := by
  obtain ⟨ph, h⟩ := h.exists_inPhase
  rcases step_cases s with ⟨-, e⟩ | ⟨-, hp, -, e⟩ | ⟨-, -, e⟩ <;> rw [e]
  · exact ⟨_, rfl, (resetRegisters_inv _).passEdge false⟩
  · obtain rfl : ph = .idle := by simpa [h.phase] using hp
    exact exec_inv _ (h.passEdge true)
  · rw [runPhase_of_phase (h.passEdge false).phase]
    exact phaseCycle_inv (h.passEdge false)

/-- A property from which every edge answers a next state with the property: no run stops, and it holds at the end. -/
theorem exists_run_of_step {P : State → Prop} (hP : ∀ s, P s → ∃ t, step s = .next t ∧ P t) (n : Nat) {s : State}
    (hs : P s) : ∃ t, Host.Core.run core n s = .next t ∧ P t := by
  induction n generalizing s with
  | zero => exact ⟨s, rfl, hs⟩
  | succ n ih =>
    obtain ⟨u, hu, hPu⟩ := hP s hs
    rw [run_succ n hu]
    exact ih hPu

/-- The state right after reset meets the invariant, with any build and any host. -/
theorem reset_inv (b : Config.Build) (h : List HostAct) : State.Inv { State.reset with build := b, host := h } :=
  resetRegisters_inv { State.reset with build := b, host := h }

/-- Settles O44: the reset state meets the invariant, every edge answers a next state that meets it, and R37 is a part
of it. -/
theorem reachableStatesAreLegal : Obligations.ReachableStatesAreLegal := by
  intro b h n
  obtain ⟨t, ht, hinv⟩ := exists_run_of_step (fun _ => step_inv) n (reset_inv b h)
  obtain ⟨hstate, hseq, hphase, herr, hprof, hidle, hsclk, hle⟩ := hinv.legal
  exact ⟨t, ht, hstate, hseq, hphase, herr, hprof, hidle, hsclk, hle⟩

end Sys2Proof.Machine
end

section
/-! SUPPORT. What an edge can do to `STATE` and `PROF`, and the layout of the status word. -/

namespace Sys2Proof.Machine

/-! ### `STATE` and `PROF` -/

/-- The edge of `END`, whatever else the state holds (R94, R95). -/
theorem step_of_done {s : State} (hr : s.portIn.rstN = true) (hp : s.phase = Phase.fetch.bits)
    (hop : s.microOp = some .done) : step s = .next (s.passEdge false).commit := by
  have hop' : microOpAt s.params s.seq s.upc = some .done := hop
  rw [step_of_phase hp (by decide) hr]
  simp only [phaseCycle, runFetch, State.passEdge_params, State.passEdge_seq, State.passEdge_upc, hop']

/-- A cycle of a phase keeps `STATE` and `PROF`, but for the FETCH cycle of `END`. -/
theorem phaseCycle_state_prof {s t : State} {ph : Phase} (h : phaseCycle ph s = .next t) :
    (t.state = s.state ∧ t.prof = s.prof) ∨ (ph = .fetch ∧ s.microOp = some .done ∧ t = s.commit) := by
  cases ph with
  | idle => cases h; exact .inl ⟨rfl, rfl⟩
  | fetch =>
    rcases runFetch_eq_next h with ⟨_, _, _, rfl⟩ | ⟨_, _, rfl⟩ | ⟨hop, rfl⟩
    · exact .inl ⟨rfl, rfl⟩
    · exact .inl ⟨rfl, rfl⟩
    · exact .inr ⟨rfl, hop, rfl⟩
  | setup => rcases runSetup_eq_next h with ⟨_, rfl⟩ | ⟨_, rfl⟩ <;> exact .inl ⟨rfl, rfl⟩
  | shi => rcases runShi_eq_next h with ⟨_, _, rfl⟩ | ⟨_, rfl⟩ <;> exact .inl ⟨rfl, rfl⟩
  | slo => rcases runSlo_eq_next h with ⟨_, _, rfl⟩ | ⟨_, _, rfl⟩ | ⟨_, rfl⟩ <;> exact .inl ⟨rfl, rfl⟩
  | leh => rcases runLeh_eq_next h with ⟨_, _, rfl⟩ | ⟨_, rfl⟩ <;> exact .inl ⟨rfl, rfl⟩
  | wait => rcases runWait_eq_next h with ⟨_, _, rfl⟩ | ⟨_, rfl⟩ <;> exact .inl ⟨rfl, rfl⟩

/-- An accepted command keeps `STATE` and `PROF`. -/
theorem exec_state_prof {i : Instr} {s t : State} (h : exec i s = .next t) : t.state = s.state ∧ t.prof = s.prof := by
  rcases exec_cases i s with e | e | ⟨c, e⟩ | ⟨q, r, e, -⟩ <;> rw [e] at h <;> cases h <;> simp

/-- Everything an edge can do to `STATE` and `PROF`: reset clears both, `END` commits, and any other edge keeps them. -/
theorem step_state_prof {s t : State} (h : step s = .next t) :
    (s.portIn.rstN = false ∧ t.state = uninit ∧ t.prof = 0#3) ∨ (t.state = s.state ∧ t.prof = s.prof) ∨
    (s.phase = Phase.fetch.bits ∧ s.microOp = some .done ∧ t = (s.passEdge false).commit) := by
  rcases step_cases s with ⟨hr, e⟩ | ⟨-, -, -, e⟩ | ⟨-, -, e⟩ <;> rw [e] at h
  · cases h
    exact .inl ⟨hr, rfl, rfl⟩
  · exact .inr (.inl (exec_state_prof (s := s.passEdge true) h))
  · obtain ⟨ph, hp, h⟩ := runPhase_eq_next h
    rcases phaseCycle_state_prof h with hkeep | ⟨rfl, hop, ht⟩
    · exact .inr (.inl hkeep)
    · exact .inr (.inr ⟨hp, hop, ht⟩)

/-- Settles O29, by what an edge can do to `STATE` and `PROF`. -/
theorem stateAndProfChangeOnlyAtEnd : Obligations.StateAndProfChangeOnlyAtEnd := by
  refine ⟨fun s hr hp hop => ?_, fun s t hr h hne => ?_, fun s t h hs ht => ?_⟩
  · rw [step_of_done hr hp hop, State.commit]
    by_cases hq : s.seq = 0#2 <;> simp [hq, Seq.bits, Phase.bits, State.passEdge]
  · rcases step_state_prof h with ⟨hr', -, -⟩ | ⟨hstate, hprof⟩ | ⟨hp, hop, rfl⟩
    · rw [hr] at hr'; cases hr'
    · simp [hstate, hprof] at hne
    · exact ⟨hp, hop, by simp [State.busy]⟩
  · rcases step_state_prof h with ⟨-, -, hprof⟩ | ⟨hstate, hprof⟩ | ⟨-, -, rfl⟩
    · exact hprof
    · rw [hprof]; exact hs (hstate ▸ ht)
    · exact State.commit_prof_zero _ ht

/-! ### The status word -/

/-- Settles O24, by peeling R30's concatenation from its low end down to each field. -/
theorem statusWordLayout : Obligations.StatusWordLayout := by
  intro s
  refine ⟨?state, ?prof, ?busy, ?zeros, ?err, ?multi, ?top, ?isBusy, ?isReady⟩
  case isBusy => simp [State.busy, Phase.bits]
  case isReady => simp [State.cmdReady, Phase.bits]
  all_goals unfold State.status
  case state => exact BitVec.extractLsb'_append_eq_right
  case prof =>
    rw [BitVec.extractLsb'_append_eq_of_le (by decide)]
    exact BitVec.extractLsb'_append_eq_right
  case busy =>
    iterate 3 rw [BitVec.getLsbD_append]
    simp
  case zeros =>
    iterate 3 rw [BitVec.extractLsb'_append_eq_of_le (by decide)]
    exact BitVec.extractLsb'_append_eq_right
  case err =>
    iterate 4 rw [BitVec.extractLsb'_append_eq_of_le (by decide)]
    exact BitVec.extractLsb'_append_eq_right
  case multi =>
    iterate 6 rw [BitVec.getLsbD_append]
    simp
  case top =>
    iterate 6 rw [BitVec.extractLsb'_append_eq_of_le (by decide)]
    exact BitVec.extractLsb'_eq_self

end Sys2Proof.Machine
end

section
/-! SUPPORT. The bits of a word under the modifiers of the write path (R50, R51). -/

namespace Sys2Proof.Machine

/-- CLR21's mask is every bit but bit 21. -/
theorem clr21_eq_and_not_twoPow (w : Word) : clr21 w = w &&& ~~~(BitVec.twoPow 32 21) := rfl

/-- SET4's mask is bit 4 alone. -/
theorem set4_eq_or_twoPow (w : Word) : set4 w = w ||| BitVec.twoPow 32 4 := rfl

@[simp] theorem getLsbD_clr21 (w : Word) (i : Nat) : (clr21 w).getLsbD i = (w.getLsbD i && i != 21) := by
  rw [clr21_eq_and_not_twoPow, BitVec.getLsbD_and, BitVec.getLsbD_not, BitVec.getLsbD_twoPow]
  by_cases hi : i < 32
  · rcases eq_or_ne i 21 with rfl | h
    · simp
    · simp [hi, h, h.symm]
  · simp [BitVec.getLsbD_of_ge w i (by omega)]

@[simp] theorem getLsbD_set4 (w : Word) (i : Nat) : (set4 w).getLsbD i = (w.getLsbD i || i == 4) := by
  rw [set4_eq_or_twoPow, BitVec.getLsbD_or, BitVec.getLsbD_twoPow]
  rcases eq_or_ne i 4 with rfl | h
  · simp
  · simp [h, h.symm]

/-- Settles O25, by the bits of the two masks. -/
theorem modifiersTouchOneBit : Obligations.ModifiersTouchOneBit :=
  ⟨fun w i => ⟨getLsbD_clr21 w i, getLsbD_set4 w i, rfl⟩, rfl⟩

end Sys2Proof.Machine
end

section
/-! SUPPORT. The five commands that are not refused: what each does in the cycle that accepts it, and what its words
are (R64 to R68). -/

namespace Sys2Proof.Machine

/-! ### Acceptance -/

/-- The machine is busy exactly when it is not ready (R28). -/
theorem State.busy_eq_not_cmdReady (s : State) : s.busy = !s.cmdReady := rfl

theorem State.cmdReady_iff (s : State) : s.cmdReady = true ↔ s.phase = Phase.idle.bits := by simp [State.cmdReady]

/-- The accepting edge runs the command that the word on the port decodes to (R61, R90). -/
theorem step_of_accept {s : State} {w : Byte} (hport : s.portIn = ⟨true, true, w⟩)
    (hidle : s.phase = Phase.idle.bits) : step s = exec (decodeWord w) (s.passEdge true) := by
  rcases step_cases s with ⟨hr, -⟩ | ⟨-, -, -, e⟩ | ⟨-, hv, -⟩
  · rw [hport] at hr; cases hr
  · rw [e, hport]
  · have hv' := hv hidle
    rw [hport] at hv'
    cases hv'

/-- An edge of a machine that is not idle, without reset, is a cycle of its phase, whatever the host offers. -/
theorem step_of_not_idle {s : State} (hr : s.portIn.rstN = true) (hbusy : s.phase ≠ Phase.idle.bits) :
    step s = runPhase (s.passEdge false) := by
  rcases step_cases s with ⟨hr', -⟩ | ⟨-, hidle, -⟩ | ⟨-, -, e⟩
  · rw [hr] at hr'; cases hr'
  · exact absurd hidle hbusy
  · exact e

/-! ### `ERR` and `MULTI` in a running sequence -/

/-- No cycle of a phase changes `ERR` or `MULTI`. -/
theorem phaseCycle_err_multi {s t : State} {ph : Phase} (h : phaseCycle ph s = .next t) :
    t.err = s.err ∧ t.multi = s.multi := by
  cases ph with
  | idle => cases h; exact ⟨rfl, rfl⟩
  | fetch => rcases runFetch_eq_next h with ⟨_, _, _, rfl⟩ | ⟨_, _, rfl⟩ | ⟨_, rfl⟩ <;> simp
  | setup => rcases runSetup_eq_next h with ⟨_, rfl⟩ | ⟨_, rfl⟩ <;> exact ⟨rfl, rfl⟩
  | shi => rcases runShi_eq_next h with ⟨_, _, rfl⟩ | ⟨_, rfl⟩ <;> exact ⟨rfl, rfl⟩
  | slo => rcases runSlo_eq_next h with ⟨_, _, rfl⟩ | ⟨_, _, rfl⟩ | ⟨_, rfl⟩ <;> exact ⟨rfl, rfl⟩
  | leh => rcases runLeh_eq_next h with ⟨_, _, rfl⟩ | ⟨_, rfl⟩ <;> exact ⟨rfl, rfl⟩
  | wait => rcases runWait_eq_next h with ⟨_, _, rfl⟩ | ⟨_, rfl⟩ <;> exact ⟨rfl, rfl⟩

/-! ### The profile index -/

/-- `ARG[3]` is 1 exactly where the index is 8 or more (R70). -/
theorem badIndex_eq_decide (arg : BitVec 4) : badIndex arg = decide (8 ≤ arg.toNat) :=
  (BitVec.msb_eq_getLsbD_last arg).symm.trans (BitVec.msb_eq_decide arg)

theorem badIndex_of_le {arg : BitVec 4} (h : arg.toNat ≤ 7) : badIndex arg = false := by
  rw [badIndex_eq_decide, decide_eq_false_iff_not]; omega

theorem badIndex_of_ge {arg : BitVec 4} (h : 8 ≤ arg.toNat) : badIndex arg = true := by
  rw [badIndex_eq_decide]; exact decide_eq_true h

/-- The row of an index is its value in 3 bits. -/
theorem indexRow_eq_ofNat (arg : BitVec 4) : indexRow arg = BitVec.ofNat 3 arg.toNat := rfl

/-! ### What the commands do -/

theorem exec_nop (arg : BitVec 4) (s : State) : exec (.nop arg) s = .next s := rfl

theorem exec_clrerr (arg : BitVec 4) (s : State) : exec (.clrerr arg) s = .next s.clearErrors := rfl

theorem exec_setfreq (arg : BitVec 4) (s : State) : exec (.setfreq arg) s = .next (startSwitch .sf arg s) := rfl

theorem exec_setfreqFc (arg : BitVec 4) (s : State) : exec (.setfreqFc arg) s = .next (startSwitch .fc arg s) := rfl

theorem exec_setfreqRefused (arg : BitVec 4) (s : State) :
    exec (.setfreqRefused arg) s = .next (s.raiseError .arg) := rfl

theorem exec_setfreqFcRefused (arg : BitVec 4) (s : State) :
    exec (.setfreqFcRefused arg) s = .next (s.raiseError .arg) := rfl

theorem exec_init_of_uninit (arg : BitVec 4) {s : State} (h : s.state = uninit) :
    exec (.init arg) s = .next (s.start .init 1#3) := if_pos h

/-- With no error recorded there is nothing to clear. -/
theorem State.clearErrors_of_no_error {s : State} (herr : s.err = 0#3) (hmulti : s.multi = false) :
    s.clearErrors = s := by
  rw [State.clearErrors, ← herr, ← hmulti]

/-- Both SETFREQ commands with a valid index, outside UNINIT, start their sequence on the row of the index. -/
theorem startSwitch_of_valid (q : Seq) {arg : BitVec 4} {s : State} (harg : arg.toNat ≤ 7) (hs : s.state ≠ uninit) :
    startSwitch q arg s = s.start q (BitVec.ofNat 3 arg.toNat) := by
  rw [← indexRow_eq_ofNat, startSwitch, badIndex_of_le harg, if_neg Bool.false_ne_true, if_neg hs]

/-! ### The words of SETFREQ and SETFREQ.FC, by their index -/

theorem decodeWord_setfreq {arg : BitVec 4} (h : arg.toNat ≤ 7) : decodeWord (0x2#4 ++ arg) = .setfreq arg :=
  (Laws.Encoding.setfreq arg (congrArg Bool.not (badIndex_of_le h))).2

theorem decodeWord_setfreqFc {arg : BitVec 4} (h : arg.toNat ≤ 7) : decodeWord (0x3#4 ++ arg) = .setfreqFc arg :=
  (Laws.Encoding.setfreqFc arg (congrArg Bool.not (badIndex_of_le h))).2

theorem decodeWord_setfreqRefused {arg : BitVec 4} (h : 8 ≤ arg.toNat) :
    decodeWord (0x2#4 ++ arg) = .setfreqRefused arg :=
  (Laws.Encoding.setfreqRefused arg (badIndex_of_ge h)).2

theorem decodeWord_setfreqFcRefused {arg : BitVec 4} (h : 8 ≤ arg.toNat) :
    decodeWord (0x3#4 ++ arg) = .setfreqFcRefused arg :=
  (Laws.Encoding.setfreqFcRefused arg (badIndex_of_ge h)).2

theorem decodeWord_nop (arg : BitVec 4) : decodeWord (0x0#4 ++ arg) = .nop arg := (Laws.Encoding.nop arg rfl).2

theorem decodeWord_init (arg : BitVec 4) : decodeWord (0x1#4 ++ arg) = .init arg := (Laws.Encoding.init arg rfl).2

theorem decodeWord_clrerr (arg : BitVec 4) : decodeWord (0x4#4 ++ arg) = .clrerr arg :=
  (Laws.Encoding.clrerr arg rfl).2

/-! ### The obligations -/

/-- Settles O13: the edge that accepts a NOP only passes to the host's next act, so the phase is still IDLE. -/
theorem nopChangesNothing : Obligations.NopChangesNothing := by
  refine ⟨fun arg => ⟨rfl, decodeWord_nop arg⟩, exec_nop, fun arg s hport hready => ?_⟩
  have hstep : step s = .next (s.passEdge true) := by
    rw [step_of_accept hport (s.cmdReady_iff.mp hready), decodeWord_nop, exec_nop]
  have hready' : (s.passEdge true).cmdReady = true := hready
  exact ⟨s.passEdge true, hstep, rfl, hready', by rw [State.busy_eq_not_cmdReady, hready']; rfl⟩

/-- Settles O14: in a busy phase the edge is a cycle of the sequence, and none of these touches `ERR` or `MULTI`. -/
theorem clrerrClearsOnlyTheErrors : Obligations.ClrerrClearsOnlyTheErrors := by
  refine ⟨fun arg => ⟨rfl, decodeWord_clrerr arg⟩, exec_clrerr, fun arg s herr hmulti => ?_,
    fun arg s t hport hbusy h => ?_⟩
  · rw [exec_clrerr, State.clearErrors_of_no_error herr hmulti]
  · have hr : s.portIn.rstN = true := by rw [hport]
    rw [step_of_not_idle hr hbusy] at h
    obtain ⟨ph, -, hcycle⟩ := runPhase_eq_next h
    exact phaseCycle_err_multi (s := s.passEdge false) hcycle

/-- Settles O15, by INIT's arm in UNINIT. -/
theorem initStartsOnRowOne : Obligations.InitStartsOnRowOne :=
  ⟨fun arg => ⟨rfl, decodeWord_init arg⟩, fun arg _ hs => exec_init_of_uninit arg hs⟩

/-- Settles O16, by the range of the index. -/
theorem setfreqStartsOnItsRow : Obligations.SetfreqStartsOnItsRow := by
  refine ⟨fun arg harg => ⟨rfl, decodeWord_setfreq harg⟩, fun arg s harg hs => ?_, fun arg s harg => ?_⟩
  · rw [exec_setfreq, startSwitch_of_valid .sf harg hs]
    rfl
  · rw [decodeWord_setfreqRefused harg, exec_setfreqRefused]

/-- Settles O17, by the range of the index. -/
theorem setfreqFcStartsOnItsRow : Obligations.SetfreqFcStartsOnItsRow := by
  refine ⟨fun arg harg => ⟨rfl, decodeWord_setfreqFc harg⟩, fun arg s harg hs => ?_, fun arg s harg => ?_⟩
  · rw [exec_setfreqFc, startSwitch_of_valid .fc harg hs]
    rfl
  · rw [decodeWord_setfreqFcRefused harg, exec_setfreqFcRefused]

end Sys2Proof.Machine
end

section
/-! SUPPORT. A frame cycle by cycle (R79 to R81): the whole state in every cycle of a running `WR`, what each edge that
ends a phase does to it, and the cycles these edges end. -/

namespace Sys2Proof.Machine

/-! ### The host within a span -/

/-- Within a span of `N` edges without reset there is none at the `n` edges after the first `m`. -/
theorem noReset_within {N m n : Nat} {h : List HostAct} (hr : noReset N h = true) (hle : m + n ≤ N) :
    noReset n (hostAfterBusy m h) = true := by
  rw [← Nat.add_sub_of_le hle] at hr
  exact (noReset_add (noReset_add hr).1).2

theorem portIn_rstN_within {N : Nat} {s t : State} (hr : noReset N s.host = true) {n : Nat} (hn : n < N)
    (ht : t.host = hostAfterBusy n s.host) : t.portIn.rstN = true :=
  (noReset_succ (n := 0) (ht ▸ noReset_within hr hn)).1

/-! ### The state in a cycle of a frame -/

/-- The shadow after the first `c` bits of a frame that carries `w` (R41, R77). -/
def Synth.sampleBits (y : Synth) (w : Word) : Nat → Synth
  | 0 => y
  | c + 1 => (y.sampleBits w c).sample (w.getLsbD (31 - c))

/-- The shadow in a frame that carries `w`, in phase `ph` after `i` falling `spi_sclk` edges: in SHI the present bit is
sampled too, and in LEH the word is committed (R77, R84). -/
def Synth.duringFrame (y : Synth) (w : Word) (i : Nat) : Phase → Synth
  | .shi => y.sampleBits w (i + 1)
  | .leh => (y.sampleBits w i).commit
  | _ => y.sampleBits w i

/-- The state `n` edges after the FETCH cycle's state `s`, in a frame that carries `w`: in phase `ph` with `TMR = t`,
after `i` falling `spi_sclk` edges (R80). -/
def State.inFrameAt (s : State) (w : Word) (ph : Phase) (i t n : Nat) : State :=
  { s with
    phase := ph.bits, nbits := BitVec.ofNat 6 (32 - i), tmr := t, shreg := w <<< i
    sclk := decide (ph = .shi), le := decide (ph = .leh)
    host := hostAfterBusy n s.host, synth := s.synth.duringFrame w i ph }

/-- The phase that the `j`-th rising `spi_sclk` edge ends; with `j = 32`, the one that the rise of `spi_le` ends. -/
def Phase.beforeRise : Nat → Phase
  | 0 => .setup
  | _ + 1 => .slo

@[simp] theorem Phase.beforeRise_ne_shi (j : Nat) : Phase.beforeRise j ≠ .shi := by cases j <;> simp [beforeRise]

theorem Phase.beforeRise_ne_idle (j : Nat) : Phase.beforeRise j ≠ .idle := by cases j <;> simp [beforeRise]

variable {s : State} {w : Word} {ph : Phase} {i t n : Nat}

@[simp] theorem State.inFrameAt_phase : (s.inFrameAt w ph i t n).phase = ph.bits := rfl
@[simp] theorem State.inFrameAt_upc : (s.inFrameAt w ph i t n).upc = s.upc := rfl
@[simp] theorem State.inFrameAt_tmr : (s.inFrameAt w ph i t n).tmr = t := rfl
@[simp] theorem State.inFrameAt_shreg : (s.inFrameAt w ph i t n).shreg = w <<< i := rfl
@[simp] theorem State.inFrameAt_sclk : (s.inFrameAt w ph i t n).sclk = decide (ph = .shi) := rfl
@[simp] theorem State.inFrameAt_le : (s.inFrameAt w ph i t n).le = decide (ph = .leh) := rfl
@[simp] theorem State.inFrameAt_host : (s.inFrameAt w ph i t n).host = hostAfterBusy n s.host := rfl
@[simp] theorem State.inFrameAt_params : (s.inFrameAt w ph i t n).params = s.params := rfl

/-- `spi_mosi` shows the word's bits from the highest down, then 0 (R31, R41). -/
@[simp] theorem State.inFrameAt_mosi :
    (s.inFrameAt w ph i t n).mosi = if i < 32 then w.getLsbD (31 - i) else false := by
  unfold State.mosi
  rw [State.inFrameAt_shreg, BitVec.getLsbD_shiftLeft]
  by_cases hi : i < 32
  · simp [hi, show ¬ 31 < i by omega]
  · simp [hi, show 31 < i by omega]

/-- `NBITS` counts down to 0 at the 32nd falling edge. -/
theorem State.inFrameAt_nbits_eq_zero (hi : i ≤ 32) : (s.inFrameAt w ph i t n).nbits = 0#6 ↔ i = 32 := by
  simp only [State.inFrameAt, BitVec.toNat_eq, BitVec.toNat_ofNat]
  omega

/-- An edge at which no command is accepted moves only the host's acts. -/
theorem State.passEdge_inFrameAt : (s.inFrameAt w ph i t n).passEdge false = s.inFrameAt w ph i t (n + 1) := by
  simp only [State.inFrameAt, State.passEdge, hostAfterBusy_add n 1, hostAfterBusy_succ, hostAfterBusy_zero]

/-! ### The cycles that end a phase of a frame (R80) -/

/-- The rising `spi_sclk` edge: the shadow samples the `i`-th bit and SHI begins. -/
theorem phaseCycle_rise (hi : i < 32) :
    phaseCycle (.beforeRise i) (s.inFrameAt w (.beforeRise i) i 0 n) =
      .next (s.inFrameAt w .shi i (s.params.sclkHalf - 1) n) := by
  have hnext : ((s.inFrameAt w (.beforeRise i) i 0 n).driveSclk true).enter .shi s.params.sclkHalf =
      s.inFrameAt w .shi i (s.params.sclkHalf - 1) n := by
    simp only [State.driveSclk, State.inFrameAt_mosi, if_pos hi]
    cases i <;> rfl
  cases i with
  | zero => simp [phaseCycle, Phase.beforeRise, runSetup, ← hnext]
  | succ i =>
    have hbits : (s.inFrameAt w .slo (i + 1) 0 n).nbits ≠ 0#6 := by
      rw [Ne, State.inFrameAt_nbits_eq_zero hi.le]
      omega
    simp [phaseCycle, Phase.beforeRise, runSlo, hbits, ← hnext]

/-- The falling `spi_sclk` edge: the next bit shows and SLO begins. -/
theorem phaseCycle_fall (hi : i < 32) :
    phaseCycle .shi (s.inFrameAt w .shi i 0 n) = .next (s.inFrameAt w .slo (i + 1) (s.params.sclkHalf - 1) n) := by
  have hbits : (s.inFrameAt w .shi i 0 n).nbits ≠ 0#6 := by
    rw [Ne, State.inFrameAt_nbits_eq_zero hi.le]
    omega
  have hcount : BitVec.ofNat 6 (32 - i) - 1 = BitVec.ofNat 6 (32 - (i + 1)) := by bv_omega
  have hnext : ((s.inFrameAt w .shi i 0 n).driveSclk false).shiftOut.enter .slo s.params.sclkHalf =
      s.inFrameAt w .slo (i + 1) (s.params.sclkHalf - 1) n := by
    simp only [State.inFrameAt, ← hcount, BitVec.shiftLeft_add]
    rfl
  simp [phaseCycle, runShi, hbits, ← hnext]

/-- The rising `spi_le` edge after the last bit: the shadow commits and LEH begins. -/
theorem phaseCycle_latch :
    phaseCycle .slo (s.inFrameAt w .slo 32 0 n) =
      .next (s.inFrameAt w .leh 32 (Config.tLeUs * s.params.cycPerUs - 1) n) := by
  have hbits : (s.inFrameAt w .slo 32 0 n).nbits = 0#6 := (State.inFrameAt_nbits_eq_zero le_rfl).mpr rfl
  have hnext : ((s.inFrameAt w .slo 32 0 n).driveLe true).enter .leh (Config.tLeUs * s.params.cycPerUs) =
      s.inFrameAt w .leh 32 (Config.tLeUs * s.params.cycPerUs - 1) n := rfl
  simp [phaseCycle, runSlo, hbits, ← hnext]

/-- The falling `spi_le` edge ends the `WR`. -/
theorem phaseCycle_unlatch (hupc : s.upc ≠ 15#4) :
    phaseCycle .leh (s.inFrameAt w .leh 32 0 n) =
      .next ((s.inFrameAt w .leh 32 0 n).driveLe false).nextMicroOp := by
  have hupc' : ((s.inFrameAt w .leh 32 0 n).driveLe false).upc ≠ 15#4 := hupc
  simp [phaseCycle, runLeh, endMicroOp_of_ne hupc']

/-! ### The edges of a frame

`s` is the FETCH cycle's state of a `WR`, and the host does not reset in its span. -/

section Edges

variable (hr : noReset (wrCycles s.params) s.host = true)
include hr

/-- The FETCH cycle loads the word and enters SETUP (R79). -/
theorem step_fetchWr {k : BitVec 4} {m : Modifier} (hph : s.phase = Phase.fetch.bits)
    (hop : s.microOp = some (.wr k m)) (hsclk : s.sclk = false) (hle : s.le = false) :
    step s = .next (s.inFrameAt (muxWord s.params s.row k m) .setup 0 (s.params.sclkHalf - 1) 1) := by
  have hrst : s.portIn.rstN = true := portIn_rstN_within hr (n := 0) (by unfold wrCycles; omega) rfl
  have hop' : microOpAt (s.passEdge false).params (s.passEdge false).seq (s.passEdge false).upc = some (.wr k m) := hop
  have hnext : ((s.passEdge false).loadFrame (muxWord s.params s.row k m)).enter .setup s.params.sclkHalf =
      s.inFrameAt (muxWord s.params s.row k m) .setup 0 (s.params.sclkHalf - 1) 1 := by
    simp only [State.inFrameAt, BitVec.shiftLeft_zero, State.enter, State.loadFrame, State.passEdge, hsclk, hle]
    rfl
  rw [step_of_phase hph (by decide) hrst, ← hnext]
  simp only [phaseCycle, runFetch, hop']
  rfl

/-- An edge in the frame's span is a cycle of the phase it is in. -/
theorem step_inFrameAt (hn : n < wrCycles s.params) (hi : ph ≠ .idle) :
    step (s.inFrameAt w ph i t n) = phaseCycle ph (s.inFrameAt w ph i t (n + 1)) := by
  rw [step_of_phase rfl hi (portIn_rstN_within hr hn rfl), State.passEdge_inFrameAt]

/-- The edge at the end of the cycle before the `i`-th rise of `spi_sclk`. -/
theorem step_rise (hn : n < wrCycles s.params) (hi : i < 32) :
    step (s.inFrameAt w (.beforeRise i) i 0 n) = .next (s.inFrameAt w .shi i (s.params.sclkHalf - 1) (n + 1)) := by
  rw [step_inFrameAt hr hn (Phase.beforeRise_ne_idle i), phaseCycle_rise hi]

/-- The edge at the end of the cycle before the `i`-th fall of `spi_sclk`. -/
theorem step_fall (hn : n < wrCycles s.params) (hi : i < 32) :
    step (s.inFrameAt w .shi i 0 n) = .next (s.inFrameAt w .slo (i + 1) (s.params.sclkHalf - 1) (n + 1)) := by
  rw [step_inFrameAt hr hn (by decide), phaseCycle_fall hi]

/-- The edge at the end of the cycle before the rise of `spi_le`. -/
theorem step_latch (hn : n < wrCycles s.params) :
    step (s.inFrameAt w .slo 32 0 n) =
      .next (s.inFrameAt w .leh 32 (Config.tLeUs * s.params.cycPerUs - 1) (n + 1)) := by
  rw [step_inFrameAt hr hn (by decide), phaseCycle_latch]

/-- The edge at the end of the cycle before the fall of `spi_le`. -/
theorem step_unlatch (hn : n < wrCycles s.params) (hupc : s.upc ≠ 15#4) :
    step (s.inFrameAt w .leh 32 0 n) =
      .next ((s.inFrameAt w .leh 32 0 (n + 1)).driveLe false).nextMicroOp := by
  rw [step_inFrameAt hr hn (by decide), phaseCycle_unlatch hupc]

/-- A phase of `d` cycles in the frame's span runs down to the cycle where its timer is 0. -/
theorem run_phase_down {a : State} {d : Nat} (hrun : Host.Core.run core n s = .next a)
    (hstep : step a = .next (s.inFrameAt w ph i (d - 1) (n + 1))) (hph : ph.timed = true) (hd : 1 ≤ d)
    (hn : n + d ≤ wrCycles s.params) :
    Host.Core.run core (n + d) s = .next (s.inFrameAt w ph i 0 (n + d)) := by
  have hticks : Host.Core.run core (d - 1) (s.inFrameAt w ph i (d - 1) (n + 1)) =
      .next (s.inFrameAt w ph i 0 (n + d)) := by
    rw [run_ticks (d - 1) rfl hph le_rfl (noReset_within hr (by omega))]
    simp only [State.inFrameAt, ← hostAfterBusy_add, Nat.sub_self, show n + 1 + (d - 1) = n + d by omega]
  rw [run_add n d hrun, ← hticks, ← run_succ (d - 1) hstep, Nat.sub_add_cancel hd]

end Edges

/-! ### The cycles of R81's table

`s` is the FETCH cycle's state of `WR(k, m)`, with the serial pins low, and the host does not reset in its span. -/

/-- The cycle that the `j`-th rising `spi_sclk` edge ends, and with `j = 32` the one that the rise of `spi_le` ends,
lies in the span of the `WR`. -/
theorem rise_lt_wrCycles (p : Config.Params) {j : Nat} (hj : j ≤ 32) :
    p.sclkHalf + 2 * p.sclkHalf * j < wrCycles p := by
  have := Nat.mul_le_mul_left (2 * p.sclkHalf) hj
  unfold wrCycles
  omega

/-- The cycle that the `j`-th falling `spi_sclk` edge ends lies a half period before the next rise. -/
theorem fall_add_lt_wrCycles (p : Config.Params) {j : Nat} (hj : j < 32) :
    2 * p.sclkHalf + 2 * p.sclkHalf * j + p.sclkHalf < wrCycles p := by
  have := rise_lt_wrCycles p (Nat.succ_le_of_lt hj)
  rw [Nat.mul_succ] at this
  omega

section Frame

variable {k : BitVec 4} {m : Modifier} {j : Nat}
variable (hph : s.phase = Phase.fetch.bits) (hop : s.microOp = some (.wr k m)) (hsclk : s.sclk = false)
  (hle : s.le = false) (hr : noReset (wrCycles s.params) s.host = true)

include hr in
/-- From a rising edge of `spi_sclk` to the falling one, a half period later. -/
theorem run_rise_to_fall (hj : j < 32)
    (hrun : Host.Core.run core (s.params.sclkHalf + 2 * s.params.sclkHalf * j) s = .next
      (s.inFrameAt w (.beforeRise j) j 0 (s.params.sclkHalf + 2 * s.params.sclkHalf * j))) :
    Host.Core.run core (2 * s.params.sclkHalf + 2 * s.params.sclkHalf * j) s =
      .next (s.inFrameAt w .shi j 0 (2 * s.params.sclkHalf + 2 * s.params.sclkHalf * j)) := by
  have hspan := fall_add_lt_wrCycles s.params hj
  have hcycle : 2 * s.params.sclkHalf + 2 * s.params.sclkHalf * j =
      s.params.sclkHalf + 2 * s.params.sclkHalf * j + s.params.sclkHalf := by ring
  have hstep := step_rise (w := w) hr (rise_lt_wrCycles s.params hj.le) hj
  rw [hcycle]
  exact run_phase_down hr hrun hstep rfl s.sclkHalf_pos (by omega)

include hph hop hsclk hle hr

/-- The cycle that the `j`-th rising `spi_sclk` edge ends, and with `j = 32` the one that the rise of `spi_le` ends. -/
theorem run_to_rise (hj : j ≤ 32) :
    Host.Core.run core (s.params.sclkHalf + 2 * s.params.sclkHalf * j) s =
      .next (s.inFrameAt (muxWord s.params s.row k m) (.beforeRise j) j 0
        (s.params.sclkHalf + 2 * s.params.sclkHalf * j)) := by
  induction j with
  | zero =>
    have hspan := rise_lt_wrCycles s.params hj
    have hrun := run_phase_down hr (run_zero s) (step_fetchWr hr hph hop hsclk hle) rfl s.sclkHalf_pos (by omega)
    simpa [Phase.beforeRise] using hrun
  | succ j ih =>
    have hfall := run_rise_to_fall hr hj (ih (Nat.le_of_succ_le hj))
    have hspan := fall_add_lt_wrCycles s.params hj
    have hcycle : s.params.sclkHalf + 2 * s.params.sclkHalf * (j + 1) =
        2 * s.params.sclkHalf + 2 * s.params.sclkHalf * j + s.params.sclkHalf := by ring
    rw [hcycle]
    exact run_phase_down hr hfall (step_fall hr (by omega) hj) rfl s.sclkHalf_pos hspan.le

/-- The cycle that the `j`-th falling `spi_sclk` edge ends. -/
theorem run_to_fall (hj : j < 32) :
    Host.Core.run core (2 * s.params.sclkHalf + 2 * s.params.sclkHalf * j) s =
      .next (s.inFrameAt (muxWord s.params s.row k m) .shi j 0
        (2 * s.params.sclkHalf + 2 * s.params.sclkHalf * j)) :=
  run_rise_to_fall hr hj (run_to_rise hph hop hsclk hle hr hj.le)

/-- The cycle that the rise of `spi_le` ends. -/
theorem run_to_latch :
    Host.Core.run core (65 * s.params.sclkHalf) s =
      .next (s.inFrameAt (muxWord s.params s.row k m) .slo 32 0 (65 * s.params.sclkHalf)) := by
  have hcycle : 65 * s.params.sclkHalf = s.params.sclkHalf + 2 * s.params.sclkHalf * 32 := by ring
  rw [hcycle]
  exact run_to_rise hph hop hsclk hle hr le_rfl

/-- The cycle that the fall of `spi_le` ends. -/
theorem run_to_unlatch :
    Host.Core.run core (65 * s.params.sclkHalf + Config.tLeUs * s.params.cycPerUs) s =
      .next (s.inFrameAt (muxWord s.params s.row k m) .leh 32 0
        (65 * s.params.sclkHalf + Config.tLeUs * s.params.cycPerUs)) := by
  have hpos : 1 ≤ Config.tLeUs * s.params.cycPerUs := Nat.mul_pos (by decide) s.cycPerUs_pos
  have hspan : 65 * s.params.sclkHalf + Config.tLeUs * s.params.cycPerUs < wrCycles s.params := by
    unfold wrCycles; omega
  exact run_phase_down hr (run_to_latch hph hop hsclk hle hr) (step_latch hr (by omega)) rfl hpos hspan.le

end Frame

/-- Settles O33, by the state in the cycle that each event of R81's table ends and the edge at its end. -/
theorem frameTimingOnThePins : Obligations.FrameTimingOnThePins := by
  refine ⟨rfl, ?_⟩
  rintro s k m _ _ _ hph hop hsclk hle hupc hr rfl rfl rfl
  have hspan : 65 * s.params.sclkHalf + 3 * s.params.cycPerUs < wrCycles s.params := by
    unfold wrCycles Config.tLeUs; omega
  refine ⟨?load, fun j hj => ?rise, fun j hj => ?fall, ?latch, ?unlatch, rfl⟩
  case load => exact ⟨_, run_one (step_fetchWr hr hph hop hsclk hle), by simp, by simp⟩
  case rise =>
    exact ⟨_, _, run_to_rise hph hop hsclk hle hr hj.le, step_rise hr (rise_lt_wrCycles _ hj.le) hj,
      by simp, by simp, by simp [hj]⟩
  case fall =>
    have hmosi : 31 - (j + 1) = 30 - j := by omega
    have hlast : j + 1 < 32 ↔ j < 31 := by omega
    have := fall_add_lt_wrCycles s.params hj
    exact ⟨_, _, run_to_fall hph hop hsclk hle hr hj, step_fall hr (by omega) hj,
      by simp, by simp, by simp only [State.inFrameAt_mosi, hmosi, hlast]⟩
  case latch =>
    exact ⟨_, _, run_to_latch hph hop hsclk hle hr, step_latch hr (by omega), by simp, by simp⟩
  case unlatch =>
    exact ⟨_, _, run_to_unlatch hph hop hsclk hle hr, step_unlatch hr hspan hupc, by simp, by simp, rfl, rfl⟩

end Sys2Proof.Machine
end

section
/-! SUPPORT. The accept step (R90): what accepting a word does, by its `OP`, and that R90's pseudocode says the same. -/

namespace Sys2Proof.Machine

/-! ### Acceptance, by `OP` -/

theorem startSwitch_of_bad (q : Seq) {arg : BitVec 4} {s : State} (hbad : badIndex arg = true) :
    startSwitch q arg s = s.raiseError .arg := if_pos hbad

theorem exec_init (arg : BitVec 4) (s : State) :
    exec (.init arg) s = .next (if s.state = uninit then s.start .init 1#3 else s.raiseError .state) :=
  (apply_ite Host.Outcome.next _ _ _).symm

/-- The two rows of SETFREQ are one command: its switch checks the index itself (R66, R90). -/
theorem exec_setfreq_rows (arg : BitVec 4) (s : State) :
    exec (if badIndex arg then .setfreqRefused arg else .setfreq arg) s = .next (startSwitch .sf arg s) := by
  cases hbad : badIndex arg
  · exact exec_setfreq arg s
  · rw [startSwitch_of_bad .sf hbad]
    exact exec_setfreqRefused arg s

/-- The two rows of SETFREQ.FC, likewise (R67, R90). -/
theorem exec_setfreqFc_rows (arg : BitVec 4) (s : State) :
    exec (if badIndex arg then .setfreqFcRefused arg else .setfreqFc arg) s = .next (startSwitch .fc arg s) := by
  cases hbad : badIndex arg
  · exact exec_setfreqFc arg s
  · rw [startSwitch_of_bad .fc hbad]
    exact exec_setfreqFcRefused arg s

/-- Every reserved word raises ERR_OPCODE (R69). -/
theorem exec_decodeWord_of_reserved {w : Byte} (s : State) (h : 5 ≤ (opField w).toNat) :
    exec (decodeWord w) s = .next (s.raiseError .opcode) := by
  have hne : ∀ op : BitVec 4, op.toNat < 5 → opField w ≠ op := by rintro op hop rfl; omega
  simp only [decodeWord, hne 0#4 (by decide), hne 1#4 (by decide), hne 2#4 (by decide), hne 3#4 (by decide),
    hne 4#4 (by decide), if_false]
  split
  · rfl
  · split <;> rfl

/-- Everything accepting a word can do, by its `OP` (R63, R90). -/
theorem exec_decodeWord_cases (w : Byte) (s : State) :
    (opField w = 0#4 ∧ exec (decodeWord w) s = .next s) ∨
    (opField w = 1#4 ∧
      exec (decodeWord w) s = .next (if s.state = uninit then s.start .init 1#3 else s.raiseError .state)) ∨
    (opField w = 2#4 ∧ exec (decodeWord w) s = .next (startSwitch .sf (argField w) s)) ∨
    (opField w = 3#4 ∧ exec (decodeWord w) s = .next (startSwitch .fc (argField w) s)) ∨
    (opField w = 4#4 ∧ exec (decodeWord w) s = .next s.clearErrors) ∨
    (5 ≤ (opField w).toNat ∧ exec (decodeWord w) s = .next (s.raiseError .opcode)) := by
  by_cases h0 : opField w = 0#4
  · exact .inl ⟨h0, by simp [decodeWord, h0, exec_nop]⟩
  by_cases h1 : opField w = 1#4
  · exact .inr (.inl ⟨h1, by simp [decodeWord, h1, exec_init]⟩)
  by_cases h2 : opField w = 2#4
  · have hrow : decodeWord w =
        if badIndex (argField w) then .setfreqRefused (argField w) else .setfreq (argField w) := by
      simp [decodeWord, h2, badIndex]
    exact .inr (.inr (.inl ⟨h2, by rw [hrow, exec_setfreq_rows]⟩))
  by_cases h3 : opField w = 3#4
  · have hrow : decodeWord w =
        if badIndex (argField w) then .setfreqFcRefused (argField w) else .setfreqFc (argField w) := by
      simp [decodeWord, h3, badIndex]
    exact .inr (.inr (.inr (.inl ⟨h3, by rw [hrow, exec_setfreqFc_rows]⟩)))
  by_cases h4 : opField w = 4#4
  · exact .inr (.inr (.inr (.inr (.inl ⟨h4, by simp [decodeWord, h4, exec_clrerr]⟩))))
  have h5 : 5 ≤ (opField w).toNat := by bv_omega
  exact .inr (.inr (.inr (.inr (.inr ⟨h5, exec_decodeWord_of_reserved s h5⟩))))

/-! ### R90's pseudocode -/

theorem acceptRule_of_reserved {w : Byte} (s : State) (h : 5 ≤ (opField w).toNat) :
    acceptRule w s = s.raiseError .opcode := by
  obtain ⟨n, hn⟩ := Nat.exists_eq_add_of_le' h
  have hop : (w.extractLsb' 4 4).toNat = n + 5 := hn
  simp only [acceptRule, hop]
  rfl

/-- An accepted word does what R90's pseudocode says. -/
theorem exec_decodeWord_eq_acceptRule (w : Byte) (s : State) : exec (decodeWord w) s = .next (acceptRule w s) := by
  rcases exec_decodeWord_cases w s with ⟨h, e⟩ | ⟨h, e⟩ | ⟨h, e⟩ | ⟨h, e⟩ | ⟨h, e⟩ | ⟨h, e⟩
  pick_goal 6
  · rw [acceptRule_of_reserved s h, e]
  all_goals
    have hop : (w.extractLsb' 4 4).toNat = _ := congrArg BitVec.toNat h
    simp only [e, acceptRule, hop, ne_eq, ite_not]
    rfl

/-- Settles O10: an edge in IDLE either accepts the word on the port or is a cycle of IDLE. -/
theorem acceptStepFollowsTheRule : Obligations.AcceptStepFollowsTheRule := by
  intro s hr hidle
  rcases step_cases s with ⟨hr', -⟩ | ⟨-, -, hv, e⟩ | ⟨-, hv, e⟩
  · rw [hr] at hr'; cases hr'
  · refine ⟨fun hv' => ?_, fun _ => e.trans (exec_decodeWord_eq_acceptRule _ _)⟩
    rw [hv] at hv'; cases hv'
  · refine ⟨fun _ => e.trans (runPhase_of_phase (s := s.passEdge false) hidle), fun hv' => ?_⟩
    rw [hv hidle] at hv'; cases hv'

end Sys2Proof.Machine
end

section
/-! SUPPORT. A running sequence micro-op by micro-op (R93, R94): the state after each one, the cycles it takes, and that
the machine is busy in all of them. -/

namespace Sys2Proof.Machine

/-! ### Busy spans -/

/-- In each of the `N` cycles from `s` on, `s` included, the machine is busy with `STATE` and `PROF` as in `s`. -/
def State.BusyFor (s : State) (N : Nat) : Prop :=
  ∀ n, n < N → ∃ a : State, Host.Core.run core n s = .next a ∧ a.busy = true ∧ a.state = s.state ∧ a.prof = s.prof

variable {s t : State} {m n : Nat}

theorem State.busyFor_one (h : s.busy = true) : s.BusyFor 1 := by
  intro n hn
  obtain rfl : n = 0 := Nat.lt_one_iff.mp hn
  exact ⟨s, rfl, h, rfl, rfl⟩

/-- Busy spans compose along a run. -/
theorem State.BusyFor.append (hs : s.BusyFor m) (hrun : Host.Core.run core m s = .next t) (hstate : t.state = s.state)
    (hprof : t.prof = s.prof) (ht : t.BusyFor n) : s.BusyFor (m + n) := by
  intro j hj
  rcases Nat.lt_or_ge j m with hlt | hge
  · exact hs j hlt
  · obtain ⟨i, rfl⟩ := Nat.exists_eq_add_of_le hge
    obtain ⟨a, ha, hbusy, hastate, haprof⟩ := ht i (by omega)
    exact ⟨a, (run_add m i hrun).trans ha, hbusy, hastate.trans hstate, haprof.trans hprof⟩

/-- A timed phase is a busy span down to the cycle where its timer is 0. -/
theorem State.busyFor_of_timed {ph : Phase} (hp : s.phase = ph.bits) (hph : ph.timed = true)
    (hr : noReset s.tmr s.host = true) : s.BusyFor (s.tmr + 1) := by
  intro j hj
  have hle : j ≤ s.tmr := Nat.le_of_lt_succ hj
  have hidle : ph ≠ .idle := by rintro rfl; cases hph
  refine ⟨_, run_ticks j hp hph hle (noReset_within (m := 0) hr (by omega)), ?_, rfl, rfl⟩
  exact (State.busy_eq_of_phase hp).trans (decide_eq_true hidle)

/-! ### The state after a micro-op -/

/-- The state after a whole micro-op, from its FETCH cycle on (R79, R80, R94, R95). -/
def State.afterMicroOp (s : State) : MicroOp → State
  | .wr k m =>
    { s with
      upc := s.upc + 1, phase := Phase.fetch.bits, shreg := 0, nbits := 0, tmr := 0
      host := hostAfterBusy (wrCycles s.params) s.host
      synth := s.synth.receive (muxWord s.params s.row k m) }
  | .wait t =>
    { s with
      upc := s.upc + 1, phase := Phase.fetch.bits, tmr := 0, host := hostAfterBusy (waitCycles s.params t) s.host }
  | .done => (s.passEdge false).commit

/-- The cycles of a micro-op (R81, R96). -/
def MicroOp.cycles (p : Config.Params) : MicroOp → Nat
  | .wr _ _ => wrCycles p
  | .wait t => waitCycles p t
  | .done => 1

/-- The words a micro-op sends. -/
def MicroOp.words (p : Config.Params) (r : BitVec 3) : MicroOp → List Word
  | .wr k m => [muxWord p r k m]
  | _ => []

/-! ### `WR` as a whole -/

/-- After `c` bits of a frame the shadow's shift register ends in the word's `c` highest bits. -/
theorem Synth.sampleBits_getLsbD (y : Synth) (w : Word) {c : Nat} (hc : c ≤ 32) {i : Nat} (hi : i < c) :
    (y.sampleBits w c).shift.getLsbD i = w.getLsbD (i + (32 - c)) := by
  induction c generalizing i with
  | zero => omega
  | succ c ih =>
    rw [Synth.sampleBits, Synth.sample_getLsbD, decide_eq_true (by omega), Bool.true_and]
    cases i with
    | zero => rw [if_pos rfl]; congr 1; omega
    | succ i =>
      rw [if_neg (Nat.succ_ne_zero i), Nat.add_sub_cancel, ih (by omega) (by omega)]
      congr 1; omega

theorem Synth.sampleBits_regs (y : Synth) (w : Word) (c : Nat) : (y.sampleBits w c).regs = y.regs := by
  induction c with
  | zero => rfl
  | succ c ih => exact ih

/-- The 32 bits of a frame and the rise of `spi_le` are the frame's word received (R83, R84). -/
theorem Synth.commit_sampleBits (y : Synth) (w : Word) : (y.sampleBits w 32).commit = y.receive w := by
  have hshift : (y.sampleBits w 32).shift = w :=
    BitVec.eq_of_getLsbD_eq fun i hi => Synth.sampleBits_getLsbD y w le_rfl hi
  simp only [Synth.commit, Synth.receive, Synth.write, hshift, Synth.sampleBits_regs]

theorem wrCycles_eq_succ (p : Config.Params) : wrCycles p = 65 * p.sclkHalf + Config.tLeUs * p.cycPerUs + 1 := by
  unfold wrCycles; omega

section Frame

variable {k : BitVec 4} {md : Modifier}
variable (hph : s.phase = Phase.fetch.bits) (hop : s.microOp = some (.wr k md)) (hsclk : s.sclk = false)
  (hle : s.le = false) (hr : noReset (wrCycles s.params) s.host = true)

include hr in
/-- The busy span of a frame goes on through a phase of `d` cycles. -/
theorem busyFor_phase {w : Word} {ph : Phase} {i d : Nat} {a : State} (hb : s.BusyFor (n + 1))
    (hrun : Host.Core.run core n s = .next a) (hstep : step a = .next (s.inFrameAt w ph i (d - 1) (n + 1)))
    (hph : ph.timed = true) (hd : 1 ≤ d) (hn : n + d ≤ wrCycles s.params) : s.BusyFor (n + d + 1) := by
  have hrun' : Host.Core.run core (n + 1) s = .next (s.inFrameAt w ph i (d - 1) (n + 1)) :=
    (run_add n 1 hrun).trans (run_one hstep)
  have htimed : (s.inFrameAt w ph i (d - 1) (n + 1)).BusyFor (d - 1 + 1) :=
    State.busyFor_of_timed rfl hph (noReset_within hr (by simp only [State.inFrameAt_tmr]; omega))
  have hspan : n + d + 1 = n + 1 + (d - 1 + 1) := by omega
  rw [hspan]
  exact hb.append hrun' rfl rfl htimed

include hsclk hle in
/-- The fall of `spi_le` leaves the state after the micro-op. -/
theorem State.unlatched_eq_afterMicroOp :
    ((s.inFrameAt (muxWord s.params s.row k md) .leh 32 0 (wrCycles s.params)).driveLe false).nextMicroOp =
      s.afterMicroOp (.wr k md) := by
  have hshreg : muxWord s.params s.row k md <<< 32 = 0#32 := BitVec.shiftLeft_eq_zero le_rfl
  simp only [State.afterMicroOp, State.nextMicroOp, State.driveLe, State.inFrameAt, Synth.duringFrame,
    Synth.commit_sampleBits, hshreg, hsclk, hle]
  rfl

include hph hop hsclk hle hr

/-- A `WR` as a whole, with the frame's word received by the shadow. -/
theorem run_wr (hupc : s.upc ≠ 15#4) :
    Host.Core.run core (wrCycles s.params) s = .next (s.afterMicroOp (.wr k md)) := by
  have hlt : 65 * s.params.sclkHalf + Config.tLeUs * s.params.cycPerUs < wrCycles s.params := by
    rw [wrCycles_eq_succ]; omega
  have hstep := step_unlatch (w := muxWord s.params s.row k md) hr hlt hupc
  rw [← wrCycles_eq_succ, State.unlatched_eq_afterMicroOp hsclk hle] at hstep
  conv_lhs => rw [wrCycles_eq_succ]
  rw [run_add _ 1 (run_to_unlatch hph hop hsclk hle hr)]
  exact run_one hstep

/-- A frame is a busy span down to its `j`-th rise, and with `j = 32` to the rise of `spi_le`. -/
theorem busyFor_rise {j : Nat} (hj : j ≤ 32) : s.BusyFor (s.params.sclkHalf + 2 * s.params.sclkHalf * j + 1) := by
  induction j with
  | zero =>
    have hspan := rise_lt_wrCycles s.params hj
    have hbusy : s.busy = true := by simp [State.busy_eq_of_phase hph]
    have hsetup := busyFor_phase hr (State.busyFor_one hbusy) (run_zero s) (step_fetchWr hr hph hop hsclk hle) rfl
      s.sclkHalf_pos (by omega)
    simpa using hsetup
  | succ j ih =>
    have hj' : j ≤ 32 := Nat.le_of_succ_le hj
    have hspan := fall_add_lt_wrCycles s.params hj
    have hrise : s.params.sclkHalf + 2 * s.params.sclkHalf * j + s.params.sclkHalf =
        2 * s.params.sclkHalf + 2 * s.params.sclkHalf * j := by ring
    have hfall : s.params.sclkHalf + 2 * s.params.sclkHalf * (j + 1) =
        2 * s.params.sclkHalf + 2 * s.params.sclkHalf * j + s.params.sclkHalf := by ring
    have hshi := busyFor_phase hr (ih hj') (run_to_rise hph hop hsclk hle hr hj')
      (step_rise hr (rise_lt_wrCycles _ hj') hj) rfl s.sclkHalf_pos (by omega)
    rw [hrise] at hshi
    rw [hfall]
    exact busyFor_phase hr hshi (run_to_fall hph hop hsclk hle hr hj) (step_fall hr (by omega) hj) rfl s.sclkHalf_pos
      hspan.le

/-- A `WR` is a busy span. -/
theorem busyFor_wr : s.BusyFor (wrCycles s.params) := by
  have hpos : 1 ≤ Config.tLeUs * s.params.cycPerUs := Nat.mul_pos (by decide) s.cycPerUs_pos
  have hspan := wrCycles_eq_succ s.params
  have hlatch := busyFor_rise hph hop hsclk hle hr le_rfl
  rw [show s.params.sclkHalf + 2 * s.params.sclkHalf * 32 = 65 * s.params.sclkHalf by ring] at hlatch
  rw [hspan]
  exact busyFor_phase hr hlatch (run_to_latch hph hop hsclk hle hr) (step_latch hr (by omega)) rfl hpos (by omega)

end Frame

/-! ### `WAIT` as a whole -/

/-- Every wait of a list lasts at least a microsecond (R7, R8, R93). -/
theorem wait_pos {q : BitVec 2} {u : BitVec 4} {d : Nat} (h : microOpAt s.params q u = some (.wait d)) : 1 ≤ d := by
  obtain ⟨q, -, hq⟩ := microOpAt_eq_some h
  have hmem := List.mem_of_getElem? hq
  have hgap := s.tFcGapUs_pos
  have htail := s.tFcTailUs_pos
  cases q <;> simp [microOps, Config.tCalUs, Config.tSettleUs] at hmem <;> omega

/-- The state `n` edges after the FETCH cycle's state `s` of a `WAIT`, with `TMR = t` (R94). -/
def State.waitingAt (s : State) (t n : Nat) : State :=
  { s with phase := Phase.wait.bits, tmr := t, host := hostAfterBusy n s.host }

section Wait

variable {d : Nat} (hph : s.phase = Phase.fetch.bits) (hop : s.microOp = some (.wait d))
  (hr : noReset (waitCycles s.params d) s.host = true)

include hph hop hr in
/-- The FETCH cycle of a `WAIT` (R94). -/
theorem step_fetchWait : step s = .next (s.waitingAt (d * s.params.cycPerUs - 1) 1) := by
  have hrst : s.portIn.rstN = true := portIn_rstN_within hr (n := 0) (by unfold waitCycles; omega) rfl
  have hop' : microOpAt (s.passEdge false).params (s.passEdge false).seq (s.passEdge false).upc = some (.wait d) := hop
  rw [step_of_phase hph (by decide) hrst]
  simp only [phaseCycle, runFetch, hop']
  rfl

include hr in
/-- The cycle that ends a `WAIT`. -/
theorem step_waitingAt_zero (hupc : s.upc ≠ 15#4) :
    step (s.waitingAt 0 (d * s.params.cycPerUs)) = .next (s.afterMicroOp (.wait d)) := by
  have hrst : (s.waitingAt 0 (d * s.params.cycPerUs)).portIn.rstN = true :=
    portIn_rstN_within hr (n := d * s.params.cycPerUs) (by unfold waitCycles; omega) rfl
  have hhost : hostAfterBusy (waitCycles s.params d) s.host =
      hostAfter false (hostAfterBusy (d * s.params.cycPerUs) s.host) := by
    rw [waitCycles, Nat.add_comm, hostAfterBusy_add]
    rfl
  rw [step_of_phase (ph := .wait) rfl (by decide) hrst]
  simp only [phaseCycle, runWait, State.afterMicroOp, hhost]
  exact (if_pos rfl).trans (endMicroOp_of_ne hupc)

include hph hop hr

/-- A `WAIT` is a busy span. -/
theorem busyFor_wait : s.BusyFor (waitCycles s.params d) := by
  have hpos : 1 ≤ d * s.params.cycPerUs := Nat.mul_pos (wait_pos hop) s.cycPerUs_pos
  have hbusy : s.busy = true := by simp [State.busy_eq_of_phase hph]
  have hrun := run_one (step_fetchWait hph hop hr)
  have htimed : (s.waitingAt (d * s.params.cycPerUs - 1) 1).BusyFor (d * s.params.cycPerUs - 1 + 1) :=
    State.busyFor_of_timed (ph := .wait) rfl rfl
      (noReset_within hr (by simp only [State.waitingAt, waitCycles]; omega))
  rw [Nat.sub_add_cancel hpos] at htimed
  exact (State.busyFor_one hbusy).append hrun rfl rfl htimed

/-- A `WAIT` as a whole. -/
theorem run_wait (hupc : s.upc ≠ 15#4) :
    Host.Core.run core (waitCycles s.params d) s = .next (s.afterMicroOp (.wait d)) := by
  have hpos : 1 ≤ d * s.params.cycPerUs := Nat.mul_pos (wait_pos hop) s.cycPerUs_pos
  have hticks : Host.Core.run core (d * s.params.cycPerUs - 1) (s.waitingAt (d * s.params.cycPerUs - 1) 1) =
      .next (s.waitingAt 0 (d * s.params.cycPerUs)) := by
    have hspan : 1 + (d * s.params.cycPerUs - 1) ≤ waitCycles s.params d := by unfold waitCycles; omega
    rw [run_ticks (d * s.params.cycPerUs - 1) (ph := .wait) rfl rfl le_rfl (noReset_within hr hspan)]
    simp only [State.waitingAt, ← hostAfterBusy_add, Nat.sub_self, Nat.add_sub_cancel' hpos]
  have hcycles : waitCycles s.params d = d * s.params.cycPerUs - 1 + 1 + 1 := by unfold waitCycles; omega
  rw [hcycles, run_succ _ (step_fetchWait hph hop hr), run_add _ 1 hticks]
  exact run_one (step_waitingAt_zero hr hupc)

end Wait

/-! ### A sequence as a whole -/

section MicroOp

variable {op : MicroOp} (hph : s.phase = Phase.fetch.bits) (hop : s.microOp = some op) (hne : op ≠ .done)
  (hsclk : s.sclk = false) (hle : s.le = false) (hr : noReset (op.cycles s.params) s.host = true)
include hph hop hne hsclk hle hr

theorem run_microOp : Host.Core.run core (op.cycles s.params) s = .next (s.afterMicroOp op) := by
  have hupc : s.upc ≠ 15#4 := (microOpAt_succ_isSome hop hne).1
  cases op with
  | wr k m => exact run_wr hph hop hsclk hle hr hupc
  | wait d => exact run_wait hph hop hr hupc
  | done => exact absurd rfl hne

theorem busyFor_microOp : s.BusyFor (op.cycles s.params) := by
  cases op with
  | wr k m => exact busyFor_wr hph hop hsclk hle hr
  | wait d => exact busyFor_wait hph hop hr
  | done => exact absurd rfl hne

end MicroOp

/-- The state after micro-ops in order. -/
def State.afterMicroOps (s : State) (ops : List MicroOp) : State := ops.foldl State.afterMicroOp s

/-- The cycles of micro-ops in order. -/
def opsCycles (p : Config.Params) (ops : List MicroOp) : Nat := (ops.map (MicroOp.cycles p)).sum

@[simp] theorem State.afterMicroOps_nil (s : State) : s.afterMicroOps [] = s := rfl
@[simp] theorem State.afterMicroOps_cons (s : State) (op : MicroOp) (ops : List MicroOp) :
    s.afterMicroOps (op :: ops) = (s.afterMicroOp op).afterMicroOps ops := rfl
theorem State.afterMicroOps_append (s : State) (xs ys : List MicroOp) :
    s.afterMicroOps (xs ++ ys) = (s.afterMicroOps xs).afterMicroOps ys := List.foldl_append

@[simp] theorem opsCycles_nil (p : Config.Params) : opsCycles p [] = 0 := rfl
@[simp] theorem opsCycles_cons (p : Config.Params) (op : MicroOp) (ops : List MicroOp) :
    opsCycles p (op :: ops) = op.cycles p + opsCycles p ops := List.sum_cons

@[simp] theorem State.afterMicroOp_params (s : State) (op : MicroOp) : (s.afterMicroOp op).params = s.params := by
  cases op <;> simp [State.afterMicroOp, State.params]
@[simp] theorem State.afterMicroOp_seq (s : State) (op : MicroOp) : (s.afterMicroOp op).seq = s.seq := by
  cases op <;> simp [State.afterMicroOp]
@[simp] theorem State.afterMicroOp_row (s : State) (op : MicroOp) : (s.afterMicroOp op).row = s.row := by
  cases op <;> simp [State.afterMicroOp]
@[simp] theorem State.afterMicroOp_sclk (s : State) (op : MicroOp) : (s.afterMicroOp op).sclk = s.sclk := by
  cases op <;> simp [State.afterMicroOp]
@[simp] theorem State.afterMicroOp_le (s : State) (op : MicroOp) : (s.afterMicroOp op).le = s.le := by
  cases op <;> simp [State.afterMicroOp]
@[simp] theorem State.afterMicroOp_err (s : State) (op : MicroOp) : (s.afterMicroOp op).err = s.err := by
  cases op <;> simp [State.afterMicroOp]
@[simp] theorem State.afterMicroOp_multi (s : State) (op : MicroOp) : (s.afterMicroOp op).multi = s.multi := by
  cases op <;> simp [State.afterMicroOp]
@[simp] theorem State.afterMicroOp_synth (s : State) (op : MicroOp) :
    (s.afterMicroOp op).synth = s.synth.receiveAll (op.words s.params s.row) := by
  cases op <;> simp [State.afterMicroOp, MicroOp.words, Synth.receiveAll]
theorem State.afterMicroOp_host (s : State) (op : MicroOp) :
    (s.afterMicroOp op).host = hostAfterBusy (op.cycles s.params) s.host := by
  cases op <;> simp [State.afterMicroOp, MicroOp.cycles, hostAfterBusy_succ]

/-- A micro-op other than `END` comes to the FETCH cycle of the next one, with `STATE` and `PROF` kept. -/
theorem State.afterMicroOp_next (s : State) {op : MicroOp} (hne : op ≠ .done) :
    (s.afterMicroOp op).phase = Phase.fetch.bits ∧ (s.afterMicroOp op).upc = s.upc + 1 ∧
      (s.afterMicroOp op).state = s.state ∧ (s.afterMicroOp op).prof = s.prof := by
  cases op with
  | wr k m => exact ⟨rfl, rfl, rfl, rfl⟩
  | wait d => exact ⟨rfl, rfl, rfl, rfl⟩
  | done => exact absurd rfl hne

/-- The rest of a list, from a FETCH cycle with low pins to the end of `END`: its last state and its busy span. -/
theorem run_microOps {q : Seq} {ops : List MicroOp} (hph : s.phase = Phase.fetch.bits) (hseq : s.seq = q.bits)
    (hops : (microOps s.params q).drop s.upc.toNat = ops ++ [.done]) (hne : .done ∉ ops)
    (hsclk : s.sclk = false) (hle : s.le = false)
    (hr : noReset (opsCycles s.params (ops ++ [.done])) s.host = true) :
    Host.Core.run core (opsCycles s.params (ops ++ [.done])) s = .next (s.afterMicroOps (ops ++ [.done])) ∧
      s.BusyFor (opsCycles s.params (ops ++ [.done])) := by
  have hat : s.microOp = (ops ++ [MicroOp.done]).head? := by
    rw [State.microOp, hseq, microOpAt_bits, ← hops, List.head?_drop]
  induction ops generalizing s with
  | nil =>
    have hrst : s.portIn.rstN = true := (noReset_succ (n := 0) hr).1
    exact ⟨run_one (step_of_done hrst hph hat), State.busyFor_one (by simp [State.busy_eq_of_phase hph])⟩
  | cons op ops ih =>
    obtain ⟨hop, hne'⟩ : op ≠ .done ∧ .done ∉ ops := by simpa [eq_comm] using hne
    rw [List.cons_append, opsCycles_cons] at hr ⊢
    obtain ⟨hr₁, hr₂⟩ := noReset_add hr
    obtain ⟨hph', hupc', hstate', hprof'⟩ := s.afterMicroOp_next hop
    have hrun := run_microOp hph hat hop hsclk hle hr₁
    have hadd : (s.upc + 1).toNat = s.upc.toNat + 1 := by
      have := (microOpAt_succ_isSome hat hop).1
      bv_omega
    have hops' : (microOps (s.afterMicroOp op).params q).drop (s.afterMicroOp op).upc.toNat = ops ++ [.done] := by
      rw [State.afterMicroOp_params, hupc', hadd, ← List.drop_drop, hops]
      rfl
    have hrest := ih (s := s.afterMicroOp op) hph' (by simpa using hseq) hops' hne' (by simpa using hsclk)
      (by simpa using hle) (by rw [State.afterMicroOp_params, State.afterMicroOp_host]; exact hr₂)
      (by rw [State.microOp, State.afterMicroOp_seq, hseq, microOpAt_bits, ← hops', List.head?_drop])
    rw [State.afterMicroOp_params] at hrest
    have hbusy := busyFor_microOp hph hat hop hsclk hle hr₁
    exact ⟨(run_add _ _ hrun).trans hrest.1, hbusy.append hrun hstate' hprof' hrest.2⟩

end Sys2Proof.Machine
end

section
/-! SUPPORT. A command as a whole: what accepting a word does by the sequence it starts (R110) and the error it reports
(R120), and the run of a started sequence to its end (R95, R96). -/

namespace Sys2Proof.Machine

/-! ### Acceptance, by the sequence started and the error reported -/

/-- `errorOf`, with R62's fields and R70's check by name. -/
theorem errorOf_eq (w : Byte) (st : BitVec 2) : errorOf w st =
    if 5 ≤ (opField w).toNat then some .opcode
    else if ((opField w).toNat = 2 ∨ (opField w).toNat = 3) ∧ badIndex (argField w) = true then some .arg
    else if ((opField w).toNat = 1 ∧ st ≠ uninit) ∨ (((opField w).toNat = 2 ∨ (opField w).toNat = 3) ∧ st = uninit) then
      some .state
    else none := by
  simp only [badIndex_eq_decide, decide_eq_true_eq]
  rfl

/-- `ERR` and `MULTI` of `t` are those that a word accepted in `s` leaves (R109, R117, R120). -/
structure ReportsError (w : Byte) (s t : State) : Prop where
  of_error : ∀ c, errorOf w s.state = some c → t.err = (s.raiseError c).err ∧ t.multi = (s.raiseError c).multi
  of_clrerr : errorOf w s.state = none → opField w = 4 → t.err = 0 ∧ t.multi = false
  of_other : errorOf w s.state = none → opField w ≠ 4 → t.err = s.err ∧ t.multi = s.multi

/-- Only `ERR` and `MULTI` bear on the error that was reported. -/
theorem ReportsError.of_eq {w : Byte} {s t u : State} (h : ReportsError w s t) (herr : u.err = t.err)
    (hmulti : u.multi = t.multi) : ReportsError w s u := by
  obtain ⟨h₁, h₂, h₃⟩ := h
  constructor <;> rw [herr, hmulti] <;> assumption

/-- `t` is the state after accepting a word in `s`: the sequence that the table of R110 says has started, and where it
says none, no more than the error fields has changed. -/
structure AcceptsAs (w : Byte) (s t : State) : Prop where
  of_starts : ∀ q r, startsSequence w s.state = some (q, r) → t = s.start q r
  of_none : startsSequence w s.state = none →
    t.busy = s.busy ∧ t.state = s.state ∧ t.prof = s.prof ∧ t.synth = s.synth
  reports : ReportsError w s t

variable {w : Byte} {s : State}

theorem acceptsAs_start {q : Seq} {r : BitVec 3} (hstart : startsSequence w s.state = some (q, r))
    (herr : errorOf w s.state = none) (hop : opField w ≠ 4) : AcceptsAs w s (s.start q r) where
  of_starts _ _ h := by rw [hstart] at h; cases h; rfl
  of_none h := by rw [hstart] at h; cases h
  reports := ⟨fun _ h => (by rw [herr] at h; cases h), fun _ h => absurd h hop, fun _ _ => ⟨rfl, rfl⟩⟩

theorem acceptsAs_raiseError {c : ErrCode} (hnone : startsSequence w s.state = none)
    (herr : errorOf w s.state = some c) : AcceptsAs w s (s.raiseError c) where
  of_starts _ _ h := by rw [hnone] at h; cases h
  of_none _ := by simp [State.busy]
  reports := {
    of_error := fun _ h => by rw [herr] at h; cases h; exact ⟨rfl, rfl⟩
    of_clrerr := fun h => by rw [herr] at h; cases h
    of_other := fun h => by rw [herr] at h; cases h }

/-- NOP (R99). -/
theorem acceptsAs_self (hop : opField w = 0#4) : AcceptsAs w s s where
  of_starts _ _ h := by simp [startsSequence, hop] at h
  of_none _ := ⟨rfl, rfl, rfl, rfl⟩
  reports := ⟨fun _ h => by simp [errorOf_eq, hop] at h, fun _ h => by simp [hop] at h, fun _ _ => ⟨rfl, rfl⟩⟩

/-- CLRERR (R109). -/
theorem acceptsAs_clearErrors (hop : opField w = 4#4) : AcceptsAs w s s.clearErrors where
  of_starts _ _ h := by simp [startsSequence, hop] at h
  of_none _ := ⟨rfl, rfl, rfl, rfl⟩
  reports := ⟨fun _ h => by simp [errorOf_eq, hop] at h, fun _ _ => ⟨rfl, rfl⟩, fun _ h => absurd hop h⟩

/-- INIT starts its sequence in UNINIT and reports ERR_STATE outside it (R101). -/
theorem acceptsAs_init (hop : opField w = 1#4) :
    AcceptsAs w s (if s.state = uninit then s.start .init 1#3 else s.raiseError .state) := by
  split
  · exact acceptsAs_start (by simp [startsSequence, *]) (by simp [errorOf_eq, *]) (by simp [hop])
  · exact acceptsAs_raiseError (by simp [startsSequence, *]) (by simp [errorOf_eq, *])

/-- The two SETFREQ commands report a bad index, then UNINIT, and otherwise start their sequence (R104, R107, R120). -/
theorem acceptsAs_switch {q : Seq} (hop : q = .sf ∧ opField w = 2#4 ∨ q = .fc ∧ opField w = 3#4) :
    AcceptsAs w s (startSwitch q (argField w) s) := by
  have hstarts : startsSequence w s.state =
      if badIndex (argField w) = false ∧ s.state ≠ uninit then some (q, indexRow (argField w)) else none := by
    rcases hop with ⟨rfl, h⟩ | ⟨rfl, h⟩ <;> simp [startsSequence, h]
  have herror : errorOf w s.state =
      if badIndex (argField w) = true then some .arg else if s.state = uninit then some .state else none := by
    rcases hop with ⟨rfl, h⟩ | ⟨rfl, h⟩ <;> simp [errorOf_eq, h]
  have hne : opField w ≠ 4 := by rcases hop with ⟨-, h⟩ | ⟨-, h⟩ <;> simp [h]
  unfold startSwitch
  split
  · exact acceptsAs_raiseError (by rw [hstarts]; simp [*]) (by rw [herror]; simp [*])
  · split
    · exact acceptsAs_raiseError (by rw [hstarts]; simp [*]) (by rw [herror]; simp [*])
    · exact acceptsAs_start (by rw [hstarts]; simp [*]) (by rw [herror]; simp [*]) hne

/-- Reserved words (R69, R118). -/
theorem acceptsAs_reserved (hop : 5 ≤ (opField w).toNat) : AcceptsAs w s (s.raiseError .opcode) := by
  have hne : ∀ op : BitVec 4, op.toNat < 5 → opField w ≠ op := by rintro op hlt rfl; omega
  have hnone : startsSequence w s.state = none := by
    simp [startsSequence, hne 1#4 (by decide), hne 2#4 (by decide), hne 3#4 (by decide)]
  exact acceptsAs_raiseError hnone (by simp [errorOf_eq, hop])

/-- Accepting a word answers a next state, by the sequence it starts and the error it reports. -/
theorem exec_decodeWord_acceptsAs (w : Byte) (s : State) :
    ∃ t, exec (decodeWord w) s = .next t ∧ AcceptsAs w s t := by
  rcases exec_decodeWord_cases w s with ⟨h, e⟩ | ⟨h, e⟩ | ⟨h, e⟩ | ⟨h, e⟩ | ⟨h, e⟩ | ⟨h, e⟩
  · exact ⟨_, e, acceptsAs_self h⟩
  · exact ⟨_, e, acceptsAs_init h⟩
  · exact ⟨_, e, acceptsAs_switch (.inl ⟨rfl, h⟩)⟩
  · exact ⟨_, e, acceptsAs_switch (.inr ⟨rfl, h⟩)⟩
  · exact ⟨_, e, acceptsAs_clearErrors h⟩
  · exact ⟨_, e, acceptsAs_reserved h⟩

/-! ### A sequence from its first micro-op -/

/-- `END` is the last entry of every list, and no other entry is `END`. -/
theorem exists_microOps_eq_append (p : Config.Params) (q : Seq) :
    ∃ ops, microOps p q = ops ++ [.done] ∧ .done ∉ ops := by
  refine ⟨(microOps p q).dropLast, ?_, ?_⟩
  · cases q <;> rfl
  · cases q <;> simp [microOps]

/-- R96's table is the sum over R93's lists. -/
theorem opsCycles_microOps (p : Config.Params) (q : Seq) : opsCycles p (microOps p q) = sequenceDuration p q := by
  cases q <;> simp only [microOps, opsCycles_cons, opsCycles_nil, MicroOp.cycles, waitCycles, sequenceDuration,
    Config.tCalUs, Config.tSettleUs] <;> ring

/-- R97's table is the words that R93's lists send. -/
theorem frameWords_sequenceTrace (p : Config.Params) (r : BitVec 3) (q : Seq) :
    frameWords (sequenceTrace p r q) = (microOps p q).flatMap (MicroOp.words p r) := by
  cases q <;> rfl

theorem State.afterMicroOps_keeps (s : State) (ops : List MicroOp) :
    (s.afterMicroOps ops).err = s.err ∧ (s.afterMicroOps ops).multi = s.multi ∧
      (s.afterMicroOps ops).seq = s.seq ∧ (s.afterMicroOps ops).row = s.row := by
  induction ops generalizing s with
  | nil => exact ⟨rfl, rfl, rfl, rfl⟩
  | cons op ops ih => simpa using ih (s.afterMicroOp op)

theorem Synth.receiveAll_append (y : Synth) (xs ys : List Word) :
    y.receiveAll (xs ++ ys) = (y.receiveAll xs).receiveAll ys := List.foldl_append

/-- The shadow receives the words the micro-ops send, in order. -/
theorem State.afterMicroOps_synth (s : State) (ops : List MicroOp) :
    (s.afterMicroOps ops).synth = s.synth.receiveAll (ops.flatMap (MicroOp.words s.params s.row)) := by
  induction ops generalizing s with
  | nil => rfl
  | cons op ops ih =>
    rw [State.afterMicroOps_cons, ih, State.afterMicroOp_synth, State.afterMicroOp_params, State.afterMicroOp_row,
      List.flatMap_cons, Synth.receiveAll_append]

/-- The state after the whole of a sequence (R94, R95). -/
def State.afterSequence (s : State) (q : Seq) : State := s.afterMicroOps (microOps s.params q)

/-- A sequence runs its duration, is busy in all of it, and comes to the state after its micro-ops. -/
theorem run_sequence {q : Seq} {r : BitVec 3} (hsclk : s.sclk = false) (hle : s.le = false)
    (hr : noReset (sequenceDuration s.params q) s.host = true) :
    Host.Core.run core (sequenceDuration s.params q) (s.start q r) = .next ((s.start q r).afterSequence q) ∧
      (s.start q r).BusyFor (sequenceDuration s.params q) := by
  obtain ⟨ops, hops, hne⟩ := exists_microOps_eq_append s.params q
  have hcycles := opsCycles_microOps s.params q
  rw [hops] at hcycles
  have hrun := run_microOps (s := s.start q r) rfl rfl hops hne hsclk hle (hcycles ▸ hr)
  rw [State.start_params, hcycles] at hrun
  rw [State.afterSequence, State.start_params, hops]
  exact hrun

theorem State.start_afterSequence_err (s : State) (q : Seq) (r : BitVec 3) :
    ((s.start q r).afterSequence q).err = s.err := ((s.start q r).afterMicroOps_keeps _).1

theorem State.start_afterSequence_multi (s : State) (q : Seq) (r : BitVec 3) :
    ((s.start q r).afterSequence q).multi = s.multi := ((s.start q r).afterMicroOps_keeps _).2.1

/-- The shadow has received the words of the sequence's trace. -/
theorem State.start_afterSequence_synth (s : State) (q : Seq) (r : BitVec 3) :
    ((s.start q r).afterSequence q).synth = s.synth.receiveAll (frameWords (sequenceTrace s.params r q)) := by
  rw [State.afterSequence, State.afterMicroOps_synth, frameWords_sequenceTrace]
  rfl

/-- `END` commits and the machine is idle (R95). -/
theorem State.start_afterSequence_commit (s : State) (q : Seq) (r : BitVec 3) :
    ((s.start q r).afterSequence q).busy = false ∧
      ((s.start q r).afterSequence q).state = (if q = .init then initialized else tuned) ∧
      ((s.start q r).afterSequence q).prof = if q = .init then 0#3 else r := by
  obtain ⟨ops, hops, -⟩ := exists_microOps_eq_append s.params q
  obtain ⟨-, -, hseq, hrow⟩ := (s.start q r).afterMicroOps_keeps ops
  have hcommit : (s.start q r).afterSequence q = (((s.start q r).afterMicroOps ops).passEdge false).commit := by
    rw [State.afterSequence, State.start_params, hops, State.afterMicroOps_append]
    rfl
  simp [hcommit, hseq, hrow, State.busy]

/-! ### A command from its accepting edge -/

theorem commandDuration_of_starts {p : Config.Params} {w : Byte} {st : BitVec 2} {q : Seq} {r : BitVec 3}
    (h : startsSequence w st = some (q, r)) : commandDuration p w st = sequenceDuration p q := by
  simp [commandDuration, h]

theorem commandDuration_of_none {p : Config.Params} {w : Byte} {st : BitVec 2}
    (h : startsSequence w st = none) : commandDuration p w st = 0 := by
  simp [commandDuration, h]

theorem stateAfterCommand_of_starts {w : Byte} {st : BitVec 2} {q : Seq} {r : BitVec 3} (prof : BitVec 3)
    (h : startsSequence w st = some (q, r)) :
    stateAfterCommand w st prof = (if q = .init then initialized else tuned, if q = .init then 0#3 else r) := by
  cases q <;> simp [stateAfterCommand, h]

theorem stateAfterCommand_of_none {w : Byte} {st : BitVec 2} (prof : BitVec 3) (h : startsSequence w st = none) :
    stateAfterCommand w st prof = (st, prof) := by
  simp [stateAfterCommand, h]

/-- Raising an error and passing to the host's next act are independent. -/
theorem State.raiseError_passEdge (s : State) (a : Bool) (c : ErrCode) :
    (s.passEdge a).raiseError c = (s.raiseError c).passEdge a := by
  unfold State.raiseError
  rw [State.passEdge_err]
  split <;> rfl

/-- The error that the accepting edge reports, seen from the state before it. -/
theorem AcceptsAs.reportsError {a : Bool} {t : State} (h : AcceptsAs w (s.passEdge a) t) : ReportsError w s t := by
  obtain ⟨h₁, h₂, h₃⟩ := h.reports
  refine ⟨fun c hc => ?_, h₂, h₃⟩
  have hraised := h₁ c hc
  rwa [State.raiseError_passEdge] at hraised

section Command

variable (hb : s.BeginsCommand w)
include hb

/-- The accepting edge of a command. -/
theorem State.BeginsCommand.exists_step : ∃ t, step s = .next t ∧ AcceptsAs w (s.passEdge true) t := by
  rw [step_of_accept hb.port hb.idle]
  exact exec_decodeWord_acceptsAs w (s.passEdge true)

/-- A command that starts no sequence is over after its accepting edge, which changes no more than the error fields. -/
theorem State.BeginsCommand.run_of_none (h : startsSequence w s.state = none) :
    ∃ t, Host.Core.run core (1 + commandDuration s.params w s.state) s = .next t ∧ t.busy = false ∧
      t.state = s.state ∧ t.prof = s.prof ∧ t.synth = s.synth ∧ ReportsError w s t := by
  obtain ⟨t, hstep, hacc⟩ := hb.exists_step
  obtain ⟨hbusy, hstate, hprof, hsynth⟩ := hacc.of_none h
  have hidle : s.busy = false := by simp [State.busy, hb.idle]
  rw [commandDuration_of_none h]
  exact ⟨t, run_one hstep, hbusy.trans hidle, hstate, hprof, hsynth, hacc.reportsError⟩

/-- A command that starts a sequence is busy for its duration after the accepting edge, and then in the state after the
sequence. -/
theorem State.BeginsCommand.run_of_starts {q : Seq} {r : BitVec 3} (h : startsSequence w s.state = some (q, r)) :
    step s = .next ((s.passEdge true).start q r) ∧
      Host.Core.run core (1 + commandDuration s.params w s.state) s =
        .next (((s.passEdge true).start q r).afterSequence q) ∧
      ((s.passEdge true).start q r).BusyFor (commandDuration s.params w s.state) ∧
      ReportsError w s (((s.passEdge true).start q r).afterSequence q) := by
  obtain ⟨t, hstep, hacc⟩ := hb.exists_step
  obtain rfl := hacc.of_starts q r h
  have hsclk : s.sclk = false := congrArg Pins.sclk hb.pins_low
  have hle : s.le = false := congrArg Pins.le hb.pins_low
  have hr := hb.no_reset
  rw [commandDuration_of_starts h] at hr ⊢
  obtain ⟨hrun, hbusy⟩ := run_sequence (s := s.passEdge true) (r := r) hsclk hle hr
  refine ⟨hstep, (run_add 1 _ (run_one hstep)).trans hrun, hbusy, (hacc.reportsError).of_eq ?_ ?_⟩
  · exact State.start_afterSequence_err (s.passEdge true) q r
  · exact State.start_afterSequence_multi (s.passEdge true) q r

end Command

/-! ### The table of R110 -/

/-- Settles O45, by whether the word starts a sequence: its run ends in the commit of `END` and is a busy span until
then, and every other word is over at its accepting edge. -/
theorem commandsMoveTheStateMachineByTheTable : Obligations.CommandsMoveTheStateMachineByTheTable := by
  refine ⟨fun s w hb => ?atEnd, fun s w hb n hn hle => ?running, fun s hr => ?reset⟩
  case atEnd =>
    cases hs : startsSequence w s.state with
    | none =>
      obtain ⟨t, hrun, hbusy, hstate, hprof, -, herr, hclr, hkeep⟩ := hb.run_of_none hs
      refine ⟨t, hrun, hbusy, ?_, herr, hclr, hkeep⟩
      rw [stateAfterCommand_of_none s.prof hs, hstate, hprof]
    | some qr =>
      obtain ⟨-, hrun, -, herr, hclr, hkeep⟩ := hb.run_of_starts hs
      obtain ⟨hbusy, hstate, hprof⟩ := (s.passEdge true).start_afterSequence_commit qr.1 qr.2
      refine ⟨_, hrun, hbusy, ?_, herr, hclr, hkeep⟩
      rw [stateAfterCommand_of_starts s.prof hs, hstate, hprof]
  case running =>
    cases hs : startsSequence w s.state with
    | none => rw [commandDuration_of_none hs] at hle; omega
    | some qr =>
      obtain ⟨hstep, -, hspan, -⟩ := hb.run_of_starts hs
      obtain ⟨m, rfl⟩ := Nat.exists_eq_add_of_le' hn
      obtain ⟨a, hrun, hbusy, hstate, hprof⟩ := hspan m hle
      have hready : a.cmdReady = false := by simpa [State.busy_eq_not_cmdReady] using hbusy
      exact ⟨a, (run_succ m hstep).trans hrun, hstate, hprof, hready, by simp [State.accepts, hready]⟩
  case reset =>
    rcases step_cases s with ⟨-, e⟩ | ⟨hr', -⟩ | ⟨hr', -⟩
    · exact ⟨_, e, rfl⟩
    · rw [hr] at hr'; cases hr'
    · rw [hr] at hr'; cases hr'

end Sys2Proof.Machine
end

section
/-! SUPPORT. The shadow after the frames of a sequence, for a table with the address field of R47 (R113). -/

namespace Sys2Proof.Machine

/-! ### Where a frame's word goes -/

/-- The modifiers change no bit of the address field (R47, R50, R51). -/
theorem addressField_modWord (m : Modifier) (w : Word) : addressField (modWord m w) = addressField w := by
  unfold addressField
  congr 1
  cases m with
  | none => rfl
  | clr21 =>
    refine BitVec.eq_of_getLsbD_eq fun i hi => ?_
    have hne : (i != 21) = true := bne_iff_ne.mpr (by omega)
    simp [modWord, BitVec.getLsbD_extractLsb', hne]
  | set4 =>
    refine BitVec.eq_of_getLsbD_eq fun i hi => ?_
    have hne : (i == 4) = false := beq_false_of_ne (by omega)
    simp [modWord, BitVec.getLsbD_extractLsb', hne]

theorem profileRead_of_lt (p : Config.Params) (r : BitVec 3) {k : BitVec 4} (hk : k.toNat < 13) :
    profileRead p r k = (p.profile[r.toFin])[k.toNat] := dif_pos hk

/-- A `WR` of register `k` sends a word whose address field is `k` (R47). -/
theorem addressField_muxWord {p : Config.Params} (hp : p.AddressFields) (r : BitVec 3) {k : BitVec 4}
    (hk : k.toNat < 13) (m : Modifier) : addressField (muxWord p r k m) = k.toNat := by
  have hfield := hp r.toFin ⟨k.toNat, hk⟩
  rw [muxWord, addressField_modWord, profileRead_of_lt p r hk]
  unfold addressField
  exact (congrArg BitVec.toNat hfield).trans (by simp)

/-- A frame changes the register its address field names and no other (R84). -/
theorem Synth.receive_get (y : Synth) (w : Word) (k : Fin 13) :
    (y.receive w).regs[k] = if addressField w = k.val then w else y.regs[k] := Synth.write_get _ _ _ _

/-! ### A register along a list of micro-ops -/

/-- What a micro-op makes of the shadow's register `k`. -/
def MicroOp.regAfter (p : Config.Params) (r : BitVec 3) (k : Fin 13) (x : Word) : MicroOp → Word
  | .wr j m => if j.toNat = k.val then muxWord p r j m else x
  | _ => x

/-- Every `WR` names one of the 13 registers. -/
def MicroOp.inRange : MicroOp → Bool
  | .wr j _ => j.toNat < 13
  | _ => true

theorem microOps_inRange (p : Config.Params) (q : Seq) : ∀ op ∈ microOps p q, op.inRange = true := by
  cases q <;> simp [microOps, MicroOp.inRange]

/-- The shadow's register `k` after the words of micro-ops in order. -/
theorem Synth.receiveAll_words_get {p : Config.Params} (hp : p.AddressFields) (r : BitVec 3) (k : Fin 13)
    {ops : List MicroOp} (hops : ∀ op ∈ ops, op.inRange = true) (y : Synth) :
    (y.receiveAll (ops.flatMap (MicroOp.words p r))).regs[k] = ops.foldl (MicroOp.regAfter p r k) y.regs[k] := by
  induction ops generalizing y with
  | nil => rfl
  | cons op ops ih =>
    obtain ⟨hop, hrest⟩ := List.forall_mem_cons.mp hops
    have hreg : (y.receiveAll (op.words p r)).regs[k] = op.regAfter p r k y.regs[k] := by
      cases op with
      | wr j m =>
        have haddr := addressField_muxWord hp r (of_decide_eq_true hop) m
        exact (Synth.receive_get y _ k).trans (by rw [haddr]; rfl)
      | wait d => rfl
      | done => rfl
    rw [List.flatMap_cons, Synth.receiveAll_append, ih hrest, hreg, List.foldl_cons]

/-- The shadow's register `k` after the frames of a sequence. -/
theorem Synth.receiveAll_trace_get {p : Config.Params} (hp : p.AddressFields) (r : BitVec 3) (q : Seq) (k : Fin 13)
    (y : Synth) : (y.receiveAll (frameWords (sequenceTrace p r q))).regs[k] =
      (microOps p q).foldl (MicroOp.regAfter p r k) y.regs[k] := by
  rw [frameWords_sequenceTrace, Synth.receiveAll_words_get hp r k (microOps_inRange p q)]

section Sequences

variable (p : Config.Params) (r : BitVec 3) (k : Fin 13) (x : Word)

/-- INIT writes every register once. -/
theorem regAfter_init : (microOps p .init).foldl (MicroOp.regAfter p r k) x = p.profile[r.toFin][k] := by
  fin_cases k <;> rfl

/-- SETFREQ writes registers 2, 1 and 0, the last with bit 21 clear. -/
theorem regAfter_sf : (microOps p .sf).foldl (MicroOp.regAfter p r k) x =
    if k.val = 0 then p.profile[r.toFin][k] &&& ~~~b21 else if k.val ≤ 2 then p.profile[r.toFin][k] else x := by
  fin_cases k <;> rfl

/-- SETFREQ.FC writes registers 10, 4, 2, 1 and 0, and registers 4 and 0 a second time without their modifier. -/
theorem regAfter_fc : (microOps p .fc).foldl (MicroOp.regAfter p r k) x =
    if k.val ≤ 2 ∨ k.val = 4 ∨ k.val = 10 then p.profile[r.toFin][k] else x := by
  fin_cases k <;> rfl

end Sequences

/-- Past register 2 a switch writes the row's word or nothing, so it keeps a word that all rows share (R46, R113). -/
theorem regAfter_switch (p : Config.Params) (r : BitVec 3) {q : Seq} (hq : q ≠ .init) {k : Fin 13} (hk : 3 ≤ k.val) :
    (microOps p q).foldl (MicroOp.regAfter p r k) p.profile[r.toFin][k] = p.profile[r.toFin][k] := by
  cases q with
  | init => exact absurd rfl hq
  | sf => rw [regAfter_sf, if_neg (by omega), if_neg (by omega)]
  | fc => rw [regAfter_fc, ite_self]

/-! ### The sequence a word starts -/

/-- INIT runs on row 1 (R101). -/
theorem row_of_starts_init {w : Byte} {st : BitVec 2} {r : BitVec 3} (h : startsSequence w st = some (.init, r)) :
    r = 1#3 := by
  unfold startsSequence at h
  split_ifs at h <;> simp_all

/-- Only INIT starts in UNINIT (R110). -/
theorem state_ne_uninit_of_starts {w : Byte} {st : BitVec 2} {q : Seq} {r : BitVec 3}
    (h : startsSequence w st = some (q, r)) (hq : q ≠ .init) : st ≠ uninit := by
  unfold startsSequence at h
  split_ifs at h <;> simp_all

/-! ### The obligation -/

/-- A command that starts a sequence leaves in the shadow's register `k` what the sequence makes of it. -/
theorem State.BeginsCommand.run_synth {s : State} {w : Byte} (hb : s.BeginsCommand w) (hp : s.params.AddressFields)
    {q : Seq} {r : BitVec 3} (h : startsSequence w s.state = some (q, r)) :
    ∃ t, Host.Core.run core (1 + commandDuration s.params w s.state) s = .next t ∧
      ∀ k : Fin 13, t.synth.regs[k] = (microOps s.params q).foldl (MicroOp.regAfter s.params r k) s.synth.regs[k] := by
  obtain ⟨-, hrun, -⟩ := hb.run_of_starts h
  refine ⟨_, hrun, fun k => ?_⟩
  rw [State.start_afterSequence_synth]
  exact Synth.receiveAll_trace_get hp r q k s.synth

/-- Settles O41, by what the words of each list make of one register of the shadow; a word that starts no sequence
leaves the shadow alone at its accepting edge. -/
theorem shadowAfterEachCommand : Obligations.ShadowAfterEachCommand := by
  intro s w hb hp
  cases hs : startsSequence w s.state with
  | none =>
    obtain ⟨t, hrun, -, -, -, hsynth, -⟩ := hb.run_of_none hs
    exact ⟨t, hrun, nofun, nofun, nofun, nofun, fun _ => hsynth⟩
  | some qr =>
    obtain ⟨t, hrun, hreg⟩ := hb.run_synth hp hs
    refine ⟨t, hrun, fun r hr k => ?_, fun r hr k => ?_, fun q r hr hq htable k hk => ?_, fun r hr k => ?_, by simp⟩ <;>
      obtain rfl := Option.some.inj hr
    · obtain rfl := row_of_starts_init hs
      exact (hreg k).trans (regAfter_init ..)
    · exact (hreg k).trans (regAfter_sf ..)
    · have hrows : s.params.profile[r.toFin][k] = s.params.profile[(1 : Fin 8)][k] :=
        s.build.property.2.2.2.2 r.toFin k hk
      have hidle : s.busy = false := by simp [State.busy, hb.idle]
      have hold : s.synth.regs[k] = s.params.profile[r.toFin][k] :=
        (htable.idle hidle (state_ne_uninit_of_starts hs hq) k hk).trans hrows.symm
      refine ⟨?_, hrows.symm⟩
      rw [hreg, hold, regAfter_switch _ _ hq hk, hrows]
    · exact (hreg k).trans (regAfter_fc ..)

end Sys2Proof.Machine
end

section
/-! SUPPORT. The refused commands: what raising an error does, which error a command reports first (R118 to R121), and
that no edge but a reset or a CLRERR takes an error back (R117). -/

namespace Sys2Proof.Machine

/-! ### Raising an error -/

theorem State.raiseError_of_err_eq_zero {s : State} (h : s.err = 0#3) (c : ErrCode) :
    s.raiseError c = { s with err := c.bits } := if_pos h

theorem State.raiseError_of_err_ne_zero {s : State} (h : s.err ≠ 0#3) (c : ErrCode) :
    s.raiseError c = { s with multi := true } := if_neg h

/-! ### Reserved words -/

theorem exec_reserved5 (arg : BitVec 4) (s : State) : exec (.reserved5 arg) s = .next (s.raiseError .opcode) := rfl

theorem exec_reserved6to7 (op arg : BitVec 4) (s : State) :
    exec (.reserved6to7 op arg) s = .next (s.raiseError .opcode) := rfl

theorem exec_reserved8toF (op arg : BitVec 4) (s : State) :
    exec (.reserved8toF op arg) s = .next (s.raiseError .opcode) := rfl

theorem decodeWord_reserved5 (arg : BitVec 4) : decodeWord (0x5#4 ++ arg) = .reserved5 arg :=
  (Laws.Encoding.reserved5 arg rfl).2

theorem decodeWord_reserved6to7 {op : BitVec 4} (arg : BitVec 4) (h : op = 6 ∨ op = 7) :
    decodeWord (op ++ arg) = .reserved6to7 op arg :=
  (Laws.Encoding.reserved6to7 op arg (by rcases h with rfl | rfl <;> rfl)).2

/-- An `OP` of 8 or more has its bit 3 set, like an index of 8 or more (R69). -/
theorem decodeWord_reserved8toF {op : BitVec 4} (arg : BitVec 4) (h : 8 ≤ op.toNat) :
    decodeWord (op ++ arg) = .reserved8toF op arg :=
  (Laws.Encoding.reserved8toF op arg (badIndex_of_ge h)).2

/-- Settles O18, by the arms of the three reserved rows, which raise the same error. -/
theorem reservedWordsRaiseErrOpcode : Obligations.ReservedWordsRaiseErrOpcode := by
  intro op arg s
  rw [exec_reserved5, exec_reserved6to7, exec_reserved8toF]
  refine ⟨fun h => ?_, fun h => ?_, decodeWord_reserved5 arg, decodeWord_reserved6to7 arg, decodeWord_reserved8toF arg⟩
  · rw [State.raiseError_of_err_eq_zero h]
    exact ⟨rfl, rfl, rfl⟩
  · rw [State.raiseError_of_err_ne_zero h]
    exact ⟨rfl, rfl, rfl⟩

/-! ### Refused indices and refused states -/

/-- Settles O19: the switch itself checks the index, so that both rows of a command refuse a bad one alike. -/
theorem badIndexRaisesErrArg : Obligations.BadIndexRaisesErrArg := by
  intro arg s
  rw [exec_setfreqRefused, exec_setfreqFcRefused]
  refine ⟨fun h => ?_, fun h => ?_, fun h => ⟨decodeWord_setfreqRefused h, decodeWord_setfreqFcRefused h, ?_, ?_⟩⟩
  · rw [State.raiseError_of_err_eq_zero h]
    exact ⟨rfl, rfl⟩
  · rw [State.raiseError_of_err_ne_zero h]
    exact ⟨rfl, rfl⟩
  · rw [exec_setfreq, startSwitch_of_bad .sf (badIndex_of_ge h)]
  · rw [exec_setfreqFc, startSwitch_of_bad .fc (badIndex_of_ge h)]

theorem startSwitch_of_uninit (q : Seq) {arg : BitVec 4} {s : State} (hgood : badIndex arg = false)
    (hs : s.state = uninit) : startSwitch q arg s = s.raiseError .state := by
  rw [startSwitch, hgood, if_neg Bool.false_ne_true, if_pos hs]

/-- Settles O20, by INIT's arm outside UNINIT and the switch of the other two commands in it. -/
theorem wrongStateRaisesErrState : Obligations.WrongStateRaisesErrState := by
  refine fun arg s => ⟨fun hs => ?_, fun hs harg => ⟨?_, ?_⟩⟩
  · rw [exec_init, if_neg hs]
    rfl
  · rw [exec_setfreq, startSwitch_of_uninit .sf (badIndex_of_le harg) hs]
    rfl
  · rw [exec_setfreqFc, startSwitch_of_uninit .fc (badIndex_of_le harg) hs]
    rfl

/-! ### The error a word reports -/

/-- SETFREQ and SETFREQ.FC report a bad index first, and UNINIT only with a valid one (R120). -/
theorem errorOf_of_switch {w : Byte} (hop : opField w = 2#4 ∨ opField w = 3#4) (st : BitVec 2) :
    errorOf w st =
      if badIndex (argField w) = true then some .arg else if st = uninit then some .state else none := by
  rcases hop with h | h <;> simp [errorOf_eq, h]

theorem startSwitch_of_errorOf (q : Seq) {w : Byte} {s : State} {c : ErrCode}
    (hop : opField w = 2#4 ∨ opField w = 3#4) (h : errorOf w s.state = some c) :
    startSwitch q (argField w) s = s.raiseError c := by
  rw [errorOf_of_switch hop] at h
  cases hbad : badIndex (argField w)
  case true =>
    obtain rfl : ErrCode.arg = c := by simpa [hbad] using h
    exact startSwitch_of_bad q hbad
  case false =>
    obtain ⟨hs, rfl⟩ : s.state = uninit ∧ ErrCode.state = c := by simpa [hbad] using h
    exact startSwitch_of_uninit q hbad hs

/-- A word with an error raises that error and does nothing else. -/
theorem exec_decodeWord_of_errorOf {w : Byte} {s : State} {c : ErrCode} (h : errorOf w s.state = some c) :
    exec (decodeWord w) s = .next (s.raiseError c) := by
  rcases exec_decodeWord_cases w s with ⟨hop, e⟩ | ⟨hop, e⟩ | ⟨hop, e⟩ | ⟨hop, e⟩ | ⟨hop, e⟩ | ⟨hop, e⟩
  · simp [errorOf_eq, hop] at h
  · obtain ⟨hs, rfl⟩ : s.state ≠ uninit ∧ ErrCode.state = c := by simpa [errorOf_eq, hop] using h
    rw [e, if_neg hs]
  · rw [e, startSwitch_of_errorOf .sf (.inl hop) h]
  · rw [e, startSwitch_of_errorOf .fc (.inr hop) h]
  · simp [errorOf_eq, hop] at h
  · obtain rfl : ErrCode.opcode = c := by simpa [errorOf_eq, hop] using h
    exact e

/-- Settles O21: the error in R120's order is the one `exec` raises, and a word with none is accepted as the table of
R110 says. -/
theorem oneErrorInOrder : Obligations.OneErrorInOrder := by
  refine fun w s => ⟨fun c => exec_decodeWord_of_errorOf, fun hnone => ?_, rfl⟩
  obtain ⟨t, e, hacc⟩ := exec_decodeWord_acceptsAs w s
  exact ⟨t, e, hacc.reports.of_other hnone⟩

/-! ### Errors are sticky -/

/-- `t` takes back nothing of `ERR` and `MULTI` in `s` (R117). -/
structure KeepsErrors (s t : State) : Prop where
  err : s.err ≠ 0#3 → t.err = s.err
  multi : s.multi = true → t.multi = true

theorem ReportsError.keepsErrors {w : Byte} {s t : State} (h : ReportsError w s t) (hop : opField w ≠ 4) :
    KeepsErrors s t := by
  cases he : errorOf w s.state with
  | none =>
    obtain ⟨herr, hmulti⟩ := h.of_other he hop
    exact ⟨fun _ => herr, hmulti.trans⟩
  | some c =>
    obtain ⟨herr, hmulti⟩ := h.of_error c he
    constructor
    · intro hne
      rw [herr, State.raiseError_of_err_ne_zero hne]
    · intro hm
      rw [hmulti, State.raiseError_multi, hm, ite_self]

/-- Every edge but a reset and the acceptance of a CLRERR keeps the errors. -/
theorem step_keepsErrors {s t : State} (h : step s = .next t) (hrun : s.portIn.rstN = true)
    (hclr : s.accepts = true → opField s.portIn.cmdWord ≠ 4) : KeepsErrors s t := by
  rcases step_cases s with ⟨hreset, -⟩ | ⟨-, hidle, hvalid, e⟩ | ⟨-, -, e⟩
  · rw [hrun] at hreset
    cases hreset
  · obtain ⟨u, he, hacc⟩ := exec_decodeWord_acceptsAs s.portIn.cmdWord (s.passEdge true)
    rw [e, he] at h
    cases h
    have haccepts : s.accepts = true := by simp [State.accepts, hrun, s.cmdReady_iff.mpr hidle, hvalid]
    exact hacc.reportsError.keepsErrors (hclr haccepts)
  · rw [e] at h
    obtain ⟨ph, -, hcycle⟩ := runPhase_eq_next h
    obtain ⟨herr, hmulti⟩ := phaseCycle_err_multi hcycle
    exact ⟨fun _ => herr, hmulti.trans⟩

/-- Settles O22: an edge that takes an error back is not among those that keep them, and the start of a sequence does not
look at `ERR` or `MULTI`. -/
theorem errorsAreStickyAndDoNotBlock : Obligations.ErrorsAreStickyAndDoNotBlock := by
  refine ⟨fun s c => rfl, fun s t h hback => ?sticky, fun s w q r hstarts => ?starts⟩
  case sticky =>
    by_contra hother
    obtain ⟨hrun, hclr⟩ := not_or.mp hother
    obtain ⟨herr, hmulti⟩ := step_keepsErrors h (by simpa using hrun) (not_and.mp hclr)
    rcases hback with ⟨hne, hchanged⟩ | ⟨hm, hcleared⟩
    · exact hchanged (herr hne)
    · rw [hmulti hm] at hcleared
      cases hcleared
  case starts =>
    obtain ⟨t, e, hacc⟩ := exec_decodeWord_acceptsAs w s
    rw [e, hacc.of_starts q r hstarts]
    rfl

end Sys2Proof.Machine
end

section
/-! SUPPORT. The reset edge: the outputs at R134's register values, and the state an edge with `rst_n = 0` answers
(R133, R134). -/

namespace Sys2Proof.Machine

/-! ### The outputs at the reset values -/

section
variable (s : State)

@[simp] theorem State.resetRegisters_busy : s.resetRegisters.busy = false := rfl
@[simp] theorem State.resetRegisters_cmdReady : s.resetRegisters.cmdReady = true := rfl
@[simp] theorem State.resetRegisters_status : s.resetRegisters.status = 0#16 := by
  simp [State.status]
@[simp] theorem State.resetRegisters_pins : s.resetRegisters.pins = Pins.quiet := by
  simp [State.pins, State.mosi, Pins.quiet]

end

/-! ### The edge -/

/-- Reset comes before all else an edge can do: neither the phase nor the command port has a say (R133). -/
theorem step_of_reset {s : State} (hr : s.portIn.rstN = false) :
    step s = .next (s.cutLatchPulse.resetRegisters.passEdge false) :=
  if_pos hr

/-- Settles O6: the host's acts are no register, so the registers and the outputs after the edge are those of
`resetRegisters`; only the build comes from the state before, through the cut of a latch-enable pulse. -/
theorem resetEdgeSetsEveryRegister : Obligations.ResetEdgeSetsEveryRegister := by
  intro s hr
  refine ⟨_, step_of_reset hr, rfl, rfl, rfl, rfl, rfl, rfl, rfl, rfl, rfl, rfl, rfl, rfl, rfl,
    ?status, ?ready, ?busy, ?pins, ?build⟩
  case status => exact s.cutLatchPulse.resetRegisters_status
  case ready => exact s.cutLatchPulse.resetRegisters_cmdReady
  case busy => exact s.cutLatchPulse.resetRegisters_busy
  case pins => exact s.cutLatchPulse.resetRegisters_pins
  case build => simp

end Sys2Proof.Machine
end

section
/-! SUPPORT. The decoder against the encoder and the opcode table (R62 to R72). -/

namespace Sys2Proof

/-! ### Decoding an encoded command -/

/-- The word of a well-formed command decodes to the command, whatever its row. -/
theorem decodeWord_encodeWord {i : Instr} (h : i.WellFormed) : decodeWord (encodeWord i) = i := by
  cases i with
  | nop arg => exact (Laws.Encoding.nop arg h).2
  | init arg => exact (Laws.Encoding.init arg h).2
  | setfreq arg => exact (Laws.Encoding.setfreq arg h).2
  | setfreqFc arg => exact (Laws.Encoding.setfreqFc arg h).2
  | clrerr arg => exact (Laws.Encoding.clrerr arg h).2
  | setfreqRefused arg => exact (Laws.Encoding.setfreqRefused arg h).2
  | setfreqFcRefused arg => exact (Laws.Encoding.setfreqFcRefused arg h).2
  | reserved5 arg => exact (Laws.Encoding.reserved5 arg h).2
  | reserved6to7 op arg => exact (Laws.Encoding.reserved6to7 op arg h).2
  | reserved8toF op arg => exact (Laws.Encoding.reserved8toF op arg h).2

theorem decode_encode_append {i : Instr} (h : i.WellFormed) (rest : List Byte) :
    decode (encode i ++ rest) = .ok (i, rest) := by
  rw [encode, List.singleton_append, decode, decodeWord_encodeWord h]

theorem decodeProgram_encodeProgram {is : List Instr} (h : ∀ i ∈ is, i.WellFormed) :
    decodeProgram (encodeProgram is) = is := by
  induction is with
  | nil => rfl
  | cons i is ih =>
    obtain ⟨hi, his⟩ := List.forall_mem_cons.mp h
    rw [encodeProgram, encode, List.singleton_append, decodeProgram, decodeWord_encodeWord hi, ih his]

/-- Settles O1: one word per command, and each row's word decodes to its command. -/
theorem decodeInvertsEncode : Obligations.DecodeInvertsEncode :=
  ⟨fun _ rest h => decode_encode_append h rest, fun _ h => decodeProgram_encodeProgram h⟩

/-! ### Encoding a decoded word -/

/-- A word is its two fields (R62). -/
theorem commandWord_fields (w : Byte) : commandWord (opField w) (argField w) = w :=
  BitVec.extractLsb'_append_extractLsb'_eq_extractLsb' (x := w) rfl |>.trans BitVec.extractLsb'_eq_self

/-- A property of every pair of fields is one of every word. -/
theorem forall_word_of_fields {P : Byte → Prop} (h : ∀ op arg : BitVec 4, P (commandWord op arg)) (w : Byte) : P w :=
  commandWord_fields w ▸ h (opField w) (argField w)

/-- Settles O2, by the two fields of the word. -/
theorem encodeInvertsDecode : Obligations.EncodeInvertsDecode :=
  forall_word_of_fields (by decide)

/-- Settles O3, by the two fields of the word. -/
theorem opcodeTableIsUnambiguous : Obligations.OpcodeTableIsUnambiguous :=
  forall_word_of_fields (by decide)

/-- Settles O4, one word of each row. -/
theorem writtenWordsDecode : Obligations.WrittenWordsDecode := by
  unfold Obligations.WrittenWordsDecode
  decide

end Sys2Proof
end

section
/-! SUPPORT. The assembler's words (R73), the wire's byte order (R40, R41) and the table of a build (R45, R46). -/

namespace Sys2Proof.Machine

/-! ### The assembler (R73) -/

theorem assemble_setfreq_of_le {i : Nat} (h : i ≤ 15) :
    assemble (.setfreq i) = .ok (commandWord 0x2#4 (BitVec.ofNat 4 i)) := by
  rw [assemble, if_pos h]
  interval_cases i <;> rfl

theorem assemble_setfreqFc_of_le {i : Nat} (h : i ≤ 15) :
    assemble (.setfreqFc i) = .ok (commandWord 0x3#4 (BitVec.ofNat 4 i)) := by
  rw [assemble, if_pos h]
  interval_cases i <;> rfl

/-- The value of a word is that of its fields (R62). -/
theorem toNat_commandWord (op : BitVec 4) {i : Nat} (h : i ≤ 15) :
    (commandWord op (BitVec.ofNat 4 i)).toNat = 16 * op.toNat + i := by
  rw [commandWord, BitVec.toNat_append, BitVec.toNat_ofNat, Nat.mod_eq_of_lt (by omega),
    ← Nat.shiftLeft_add_eq_or_of_lt (by omega), Nat.shiftLeft_eq]
  omega

/-- Settles O5, by the fields of the assembled words; indices up to 7 and above decode to different rows. -/
theorem assembledLinesDecode : Obligations.AssembledLinesDecode := by
  refine ⟨rfl, rfl, rfl, by decide, by decide, by decide, fun i hi => ⟨?_, ?_⟩, fun i hi => ?index,
    fun b hb => ⟨_, if_pos hb, ?_⟩, fun b hb => if_neg (by omega)⟩
  · exact if_neg (by omega)
  · exact if_neg (by omega)
  case index =>
    have harg : (BitVec.ofNat 4 i).toNat = i := by rw [BitVec.toNat_ofNat]; omega
    refine ⟨_, _, assemble_setfreq_of_le hi, assemble_setfreqFc_of_le hi, toNat_commandWord _ hi,
      toNat_commandWord _ hi, ?_, ?_⟩
    · split
      · exact decodeWord_setfreq (by omega)
      · exact decodeWord_setfreqRefused (by omega)
    · split
      · exact decodeWord_setfreqFc (by omega)
      · exact decodeWord_setfreqFcRefused (by omega)
  · rw [BitVec.toNat_ofNat]; omega

/-! ### Byte order on the wire (R40, R41) -/

/-- Byte `i` of a word on the wire is its bits from `8 * (3 - i)` up. -/
theorem wireByte_eq_extractLsb' (w : Word) (i : Nat) : wireByte w i = w.extractLsb' (8 * (3 - i)) 8 := by
  refine BitVec.eq_of_getLsbD_eq fun j hj => ?_
  have hmask : (0xFF#32).getLsbD j = true := by interval_cases j <;> rfl
  simp only [wireByte, BitVec.truncate, BitVec.getLsbD_setWidth, BitVec.getLsbD_and, BitVec.getLsbD_ushiftRight, hmask,
    BitVec.getLsbD_extractLsb', Bool.and_true]

/-- Settles O27: each wire byte is a slice of the word, so its bits are bits of the word. -/
theorem fourBytesAreTheFrameBits : Obligations.FourBytesAreTheFrameBits := by
  intro w
  refine ⟨wireByte_eq_extractLsb' w 0, wireByte_eq_extractLsb' w 1, wireByte_eq_extractLsb' w 2,
    wireByte_eq_extractLsb' w 3, ?_⟩
  simp only [wireByte_eq_extractLsb', BitVec.getLsbD_extractLsb']
  rfl

/-! ### The table of a build (R45, R46) -/

theorem profileRead_of_ge (p : Config.Params) (r : BitVec 3) {k : BitVec 4} (hk : 13 ≤ k.toNat) :
    profileRead p r k = 0#32 := dif_neg (by omega)

/-- From register 3 on every row of a build reads as row 1 does: the address holds no word, or R46 clause 1. -/
theorem profileRead_eq_row_one (b : Config.Build) (r : BitVec 3) {k : BitVec 4} (hk : 3 ≤ k.toNat) :
    profileRead b.val r k = profileRead b.val 1 k := by
  by_cases h13 : k.toNat < 13
  · rw [profileRead_of_lt _ _ h13, profileRead_of_lt _ _ h13]
    exact b.property.2.2.2.2 r.toFin ⟨k.toNat, h13⟩ hk
  · rw [profileRead_of_ge _ _ (by omega), profileRead_of_ge _ _ (by omega)]

theorem profileRead_ofNat (p : Config.Params) (r : Fin 8) (k : Fin 13) :
    profileRead p (BitVec.ofNat 3 r.val) (BitVec.ofNat 4 k.val) = p.profile[r][k] := by
  have hr : (BitVec.ofNat 3 r.val).toFin = r := Fin.ext (by simp)
  have hk : (BitVec.ofNat 4 k.val).toNat = k.val := by rw [BitVec.toNat_ofNat]; omega
  rw [profileRead_of_lt _ _ (by omega)]
  simp only [hr, hk, Fin.getElem_fin]

/-- A build is made of the parameters it is asked for, and only of legal ones (R8, R46). -/
theorem Config.Build.make_ok_iff (p : Config.Params) :
    (∃ b, Config.Build.make p = .ok b ∧ b.val = p) ↔ p.Legal := by
  constructor
  · rintro ⟨b, -, rfl⟩
    exact b.property
  · rintro ⟨h₁, h₂, h₃, h₄, h₅⟩
    exact ⟨⟨p, h₁, h₂, h₃, h₄, h₅⟩,
      (dif_pos h₁).trans <| (dif_pos h₂).trans <| (dif_pos h₃).trans <| (dif_pos h₄).trans <| dif_pos h₅, rfl⟩

/-- Settles O26, by the three ways a table address is read and the checks of `Build.make` in order. -/
theorem buildsHoldLegalTables : Obligations.BuildsHoldLegalTables := by
  refine ⟨fun s r k hk => profileRead_of_ge _ _ hk, fun s r k hk => profileRead_eq_row_one s.build r hk,
    fun s r k => profileRead_ofNat _ r k, Config.Build.make_ok_iff, fun p h₁ h₂ h₃ h₄ h₅ => ?_, ?_⟩
  · exact (dif_pos h₁).trans <| (dif_pos h₂).trans <| (dif_pos h₃).trans <| (dif_pos h₄).trans <| dif_neg h₅
  · show Config.openProfile[(0 : Fin 8)][(0 : Fin 13)] = 0x00200320#32
    simp [Config.openProfile]

end Sys2Proof.Machine
end

section
/-! SUPPORT. The invariant's statements, the reset edge's effect on the synthesizer (R136, R138), and the command port off the
accepting edge (R61). -/

namespace Sys2Proof.Machine

/-! ### The invariant -/

/-- Settles O43: from a state with the invariant the edge answers one next state, and that has it. -/
theorem everyStepKeepsTheInvariant : Obligations.EveryStepKeepsTheInvariant := by
  intro s t hs h
  obtain ⟨u, hu, hinv⟩ := step_inv hs
  obtain rfl : u = t := by simpa [hu] using h
  exact hinv

/-- Settles O42: the edge answers a next state. -/
theorem invariantStatesNeverStop : Obligations.InvariantStatesNeverStop := fun _ hs =>
  (step_inv hs).imp fun _ => And.left

/-- Settles O7: the reset state is made of the reset values alone. -/
theorem resetStateMeetsInvariant : Obligations.ResetStateMeetsInvariant :=
  ⟨State.reset.resetRegisters_status, State.reset.resetRegisters_cmdReady, State.reset.resetRegisters_pins,
    resetRegisters_inv State.reset⟩

theorem eq_initialized_of_ne {st : BitVec 2} (h3 : st ≠ 3#2) (huninit : st ≠ uninit) (htuned : st ≠ tuned) :
    st = initialized := by
  revert st
  decide

/-- Settles O46: only `END` changes `STATE` without reset, and the invariant says in which `STATE` each sequence runs. -/
theorem onlyInitLeavesUninit : Obligations.OnlyInitLeavesUninit := by
  intro s t hs h hne
  rcases step_state_prof h with ⟨hr, hstate, -⟩ | ⟨hstate, -⟩ | ⟨hp, hop, rfl⟩
  · exact .inl ⟨hr, hstate⟩
  · exact absurd hstate hne
  · have hbusy : s.busy = true := State.busy_eq_of_phase hp
    have hcommit := (s.passEdge false).commit_state
    by_cases hq : s.seq = Seq.init.bits
    · exact .inr (.inl ⟨(hs.inSequence.init_state hbusy hq).1, hcommit.trans (if_pos hq), hq, hop⟩)
    · have htuned := hcommit.trans (if_neg hq)
      rw [htuned] at hne
      exact .inr (.inr ⟨eq_initialized_of_ne hs.legal.state_code (hs.inSequence.switch_state hbusy hq) hne.symm,
        htuned, hq, hop⟩)

/-! ### The reset edge and the synthesizer -/

/-- Settles O8: a cut latch pulse overwrites the register it was committing, and nothing else touches the shadow. -/
theorem resetLeavesTheSynthesizer : Obligations.ResetLeavesTheSynthesizer := by
  intro s hr
  refine ⟨_, step_of_reset hr, ?_, fun hle => ?_, fun hle => ?_⟩
  · simp only [State.passEdge_synth, State.resetRegisters_synth, State.cutLatchPulse_synth]
    split <;> rfl
  · simp [hle]
  · simp only [State.passEdge_freeCount, State.resetRegisters_freeCount, State.cutLatchPulse_freeCount,
      State.passEdge_synth, State.resetRegisters_synth, State.cutLatchPulse_synth, hle, if_true]
    exact ⟨trivial, Synth.write_get _ _ _⟩

/-! ### The command port -/

/-- Settles O9. -/
theorem stepRunsTheDecodedCommand : Obligations.StepRunsTheDecodedCommand := fun _ _ hport hidle =>
  step_of_accept hport hidle

/-- An outcome with other host's acts in its next state. -/
def withHost (h : List HostAct) : Result → Result
  | .next t => .next { t with host := h }
  | .fault f => .fault f
  | .refused f => .refused f

theorem endMicroOp_host (s : State) (h : List HostAct) :
    endMicroOp { s with host := h } = withHost h (endMicroOp s) := by
  unfold endMicroOp
  split <;> rfl

theorem State.commit_host_comm (s : State) (h : List HostAct) :
    State.commit { s with host := h } = { s.commit with host := h } := by
  unfold State.commit
  split <;> rfl

/-- A cycle of a phase neither reads nor changes the host's acts. -/
theorem phaseCycle_host (ph : Phase) (s : State) (h : List HostAct) :
    phaseCycle ph { s with host := h } = withHost h (phaseCycle ph s) := by
  cases ph with
  | idle => rfl
  | fetch =>
    have hop : microOpAt ({ s with host := h } : State).params s.seq s.upc = microOpAt s.params s.seq s.upc := rfl
    simp only [phaseCycle, runFetch, hop]
    cases microOpAt s.params s.seq s.upc with
    | none => rfl
    | some op =>
      cases op with
      | wr k m => rfl
      | wait t => rfl
      | done => exact congrArg Host.Outcome.next (s.commit_host_comm h)
  | setup =>
    simp only [phaseCycle, runSetup]
    split <;> rfl
  | shi =>
    simp only [phaseCycle, runShi]
    split
    · split <;> rfl
    · rfl
  | slo =>
    simp only [phaseCycle, runSlo]
    split
    · split <;> rfl
    · rfl
  | leh =>
    simp only [phaseCycle, runLeh]
    split
    · exact endMicroOp_host (s.driveLe false) h
    · rfl
  | wait =>
    simp only [phaseCycle, runWait]
    split
    · exact endMicroOp_host s h
    · rfl

theorem runPhase_host (s : State) (h : List HostAct) : runPhase { s with host := h } = withHost h (runPhase s) := by
  unfold runPhase
  cases Phase.ofBits s.phase with
  | none => rfl
  | some ph => exact phaseCycle_host ph s h

/-- Neither does a reset edge, but that it passes to the next act. -/
theorem resetEdge_host (s : State) (h : List HostAct) :
    resetEdge { s with host := h } = withHost (hostAfter false h) (resetEdge s) := by
  unfold resetEdge State.cutLatchPulse
  split <;> rfl

/-- An edge that accepts nothing: a reset, or a cycle of the phase it is in. -/
theorem step_of_not_accepts {s : State} (h : s.accepts = false) :
    step s = if s.portIn.rstN = false then resetEdge s else runPhase (s.passEdge false) := by
  rcases step_cases s with ⟨hr, e⟩ | ⟨hr, hp, hv, -⟩ | ⟨hr, -, e⟩
  · rw [e, if_pos hr]
  · simp [State.accepts, hr, s.cmdReady_iff.mpr hp, hv] at h
  · rw [e, if_neg (by simp [hr])]

/-- The outcome of an edge that accepts nothing, by `rst_n` alone, with the host's acts that come after it. -/
theorem step_host_of_not_accepts {s : State} {h : List HostAct}
    (hacc : ({ s with host := h } : State).accepts = false) :
    step { s with host := h } = withHost (hostAfter false h)
      (if ({ s with host := h } : State).portIn.rstN = false then resetEdge s else runPhase s) := by
  rw [step_of_not_accepts hacc, apply_ite (withHost _), resetEdge_host, ← runPhase_host]
  rfl

theorem withHost_withHost (h h' : List HostAct) (r : Result) : withHost h' (withHost h r) = withHost h' r := by
  cases r <;> rfl

/-- Settles O11: both hosts' edges are one outcome, each with its own acts to come. -/
theorem portIsIgnoredOffTheAcceptingEdge : Obligations.PortIsIgnoredOffTheAcceptingEdge := by
  intro s h h' hr hacc hacc'
  have hstep : step { s with host := h' } = withHost (hostAfter false h') (step { s with host := h }) := by
    rw [step_host_of_not_accepts hacc, step_host_of_not_accepts hacc', hr, withHost_withHost]
  exact ⟨fun t ht => by rw [hstep, ht]; rfl, fun f hf => by rw [hstep, hf]; rfl⟩

/-- A cycle of a phase keeps the host's acts. -/
theorem phaseCycle_keeps_host {s t : State} {ph : Phase} (h : phaseCycle ph s = .next t) : t.host = s.host := by
  have hsame := phaseCycle_host ph s s.host
  rw [h] at hsame
  have hhost := congrArg State.host (Host.Outcome.next.inj hsame)
  exact hhost

/-- An accepted command keeps the host's acts. -/
theorem exec_keeps_host {i : Instr} {s t : State} (h : exec i s = .next t) : t.host = s.host := by
  rcases exec_cases i s with e | e | ⟨c, e⟩ | ⟨q, r, e, -⟩ <;> rw [e] at h <;> cases h <;> simp

/-- Settles O12: an offer is made with `rst_n = 1`, so IDLE takes it, and a cycle of any other phase leaves it. -/
theorem offeredWordIsNotLost : Obligations.OfferedWordIsNotLost := by
  intro s t w rest hhost h
  have hport : s.portIn = ⟨true, true, w⟩ := by simp [State.portIn, hhost]
  refine ⟨fun hbusy => ?_, fun hidle => ?_⟩
  · rw [step_of_not_idle (by rw [hport]) hbusy] at h
    obtain ⟨ph, -, hcycle⟩ := runPhase_eq_next h
    rw [phaseCycle_keeps_host hcycle, State.passEdge_host, hhost, hostAfter_offer_held]
  · rw [step_of_accept hport hidle] at h
    rw [exec_keeps_host h, State.passEdge_host, hhost, hostAfter_offer_accepted]

end Sys2Proof.Machine
end

section
/-! SUPPORT. The edge that each phase takes without reset, by its timer and count (R79, R80, R94). -/

namespace Sys2Proof.Machine

/-! ### The cycles of a phase, edge by edge -/

section
variable {s : State} (hr : s.portIn.rstN = true)
include hr

/-- A cycle of a timed phase whose timer is not 0. -/
theorem step_tick {ph : Phase} (hp : s.phase = ph.bits) (hph : ph.timed = true) (ht : s.tmr ≠ 0) :
    step s = .next (s.passEdge false).tick := by
  rw [step_of_phase hp (by rintro rfl; cases hph) hr]
  exact phaseCycle_tick hph ht

/-- The FETCH cycle of each micro-op. -/
theorem step_fetch {op : MicroOp} (hp : s.phase = Phase.fetch.bits) (hop : s.microOp = some op) :
    step s = .next (match op with
      | .wr k m => ((s.passEdge false).loadFrame (muxWord s.params s.row k m)).enter .setup s.params.sclkHalf
      | .wait t => (s.passEdge false).enter .wait (t * s.params.cycPerUs)
      | .done => (s.passEdge false).commit) := by
  have hop' : microOpAt (s.passEdge false).params (s.passEdge false).seq (s.passEdge false).upc = some op := hop
  rw [step_of_phase hp (by decide) hr]
  simp only [phaseCycle, runFetch, hop']
  cases op <;> rfl

/-- SETUP raises the clock. -/
theorem step_setup (hp : s.phase = Phase.setup.bits) (ht : s.tmr = 0) :
    step s = .next (((s.passEdge false).driveSclk true).enter .shi s.params.sclkHalf) := by
  rw [step_of_phase hp (by decide) hr]
  exact if_pos ht

/-- SHI lowers the clock and shifts. -/
theorem step_shi (hp : s.phase = Phase.shi.bits) (ht : s.tmr = 0) (hn : s.nbits ≠ 0#6) :
    step s = .next (((s.passEdge false).driveSclk false).shiftOut.enter .slo s.params.sclkHalf) := by
  rw [step_of_phase hp (by decide) hr]
  exact (if_pos ht).trans (if_neg hn)

/-- SLO raises the clock for the next bit. -/
theorem step_slo_next (hp : s.phase = Phase.slo.bits) (ht : s.tmr = 0) (hn : s.nbits ≠ 0#6) :
    step s = .next (((s.passEdge false).driveSclk true).enter .shi s.params.sclkHalf) := by
  rw [step_of_phase hp (by decide) hr]
  exact (if_pos ht).trans (if_neg hn)

/-- SLO raises `LE` after the last bit. -/
theorem step_slo_last (hp : s.phase = Phase.slo.bits) (ht : s.tmr = 0) (hn : s.nbits = 0#6) :
    step s = .next (((s.passEdge false).driveLe true).enter .leh (Config.tLeUs * s.params.cycPerUs)) := by
  rw [step_of_phase hp (by decide) hr]
  exact (if_pos ht).trans (if_pos hn)

/-- LEH lowers `LE` and ends the micro-op. -/
theorem step_leh (hp : s.phase = Phase.leh.bits) (ht : s.tmr = 0) (hupc : s.upc ≠ 15#4) :
    step s = .next ((s.passEdge false).driveLe false).nextMicroOp := by
  rw [step_of_phase hp (by decide) hr]
  exact (if_pos ht).trans (endMicroOp_of_ne hupc)

/-- WAIT ends the micro-op. -/
theorem step_wait (hp : s.phase = Phase.wait.bits) (ht : s.tmr = 0) (hupc : s.upc ≠ 15#4) :
    step s = .next (s.passEdge false).nextMicroOp := by
  rw [step_of_phase hp (by decide) hr]
  exact (if_pos ht).trans (endMicroOp_of_ne hupc)

end

/-- Settles O28. -/
theorem fetchBeginsTheMicroOp : Obligations.FetchBeginsTheMicroOp := fun _ hr hp =>
  ⟨fun _ _ hop => step_fetch hr hp hop, fun _ hop => step_fetch hr hp hop⟩

/-- Settles O30, by the phase the timer runs in. -/
theorem timerCountsDown : Obligations.TimerCountsDown := by
  refine ⟨fun s hr ht hp => ?_, fun p => Config.Params.lt_two_pow_tmrW p le_rfl, by decide, by decide⟩
  rcases hp with hp | hp | hp | hp | hp <;> exact step_tick hr hp rfl ht

/-- The synthesizer sees a pin rise where it was low. -/
theorem ite_rise {α : Type} (b : Bool) (x y : α) : (if true && !b then x else y) = if b then y else x := by
  cases b <;> rfl

/-- Settles O31, phase by phase. -/
theorem timedPhasesEndByTheRule : Obligations.TimedPhasesEndByTheRule := by
  intro s hr ht
  refine ⟨fun hp => ?_, fun hp hn => ?_, fun hp hn => ?_, fun hp hn => ?_, fun hp hupc => ?_, fun hp hupc => ?_⟩
  · rw [step_setup hr hp ht, ← ite_rise]
    rfl
  · rw [step_shi hr hp ht hn]
    rfl
  · rw [step_slo_next hr hp ht hn, ← ite_rise]
    rfl
  · rw [step_slo_last hr hp ht hn, ← ite_rise]
    rfl
  · rw [step_leh hr hp ht hupc]
    rfl
  · rw [step_wait hr hp ht hupc]
    rfl

end Sys2Proof.Machine
end

section
/-! SUPPORT. The frame of a command at acceptance (R91), the moves of the sequencer's registers (R20 to R22), and the states
in which the machine stops. -/

namespace Sys2Proof.Machine

/-! ### Acceptance, and the registers of the sequencer -/

/-- A word that starts no sequence does nothing, clears the errors or raises one. -/
theorem exec_decodeWord_of_no_start {w : Byte} {s : State} (h : startsSequence w s.state = none) :
    exec (decodeWord w) s = .next s ∨ exec (decodeWord w) s = .next s.clearErrors ∨
      ∃ c, exec (decodeWord w) s = .next (s.raiseError c) := by
  have switch : ∀ q, (opField w = 2#4 ∨ opField w = 3#4) → ∃ c, startSwitch q (argField w) s = s.raiseError c := by
    intro q hop
    cases hbad : badIndex (argField w) with
    | true => exact ⟨_, startSwitch_of_bad q hbad⟩
    | false =>
      have hs : s.state = uninit := by
        rcases hop with hop | hop <;> simpa [startsSequence, hop, hbad] using h
      exact ⟨_, startSwitch_of_uninit q hbad hs⟩
  rcases exec_decodeWord_cases w s with ⟨-, e⟩ | ⟨hop, e⟩ | ⟨hop, e⟩ | ⟨hop, e⟩ | ⟨-, e⟩ | ⟨-, e⟩ <;> rw [e]
  · exact .inl rfl
  · have hs : s.state ≠ uninit := by simpa [startsSequence, hop] using h
    exact .inr (.inr ⟨_, by rw [if_neg hs]⟩)
  · exact .inr (.inr ((switch .sf (.inl hop)).imp fun c => congrArg _))
  · exact .inr (.inr ((switch .fc (.inr hop)).imp fun c => congrArg _))
  · exact .inr (.inl rfl)
  · exact .inr (.inr ⟨_, rfl⟩)

/-- A word that starts no sequence leaves the sequencer's registers alone. -/
theorem exec_keeps_sequencer {w : Byte} {s t : State} (h : startsSequence w s.state = none)
    (he : exec (decodeWord w) s = .next t) :
    t.seq = s.seq ∧ t.row = s.row ∧ t.upc = s.upc ∧ t.phase = s.phase := by
  rcases exec_decodeWord_of_no_start h with e | e | ⟨c, e⟩ <;> rw [e] at he <;> cases he <;> simp

/-- The part of the state that no command changes at acceptance. -/
theorem exec_frame {i : Instr} {s t : State} (h : exec i s = .next t) :
    t.pins = s.pins ∧ t.shreg = s.shreg ∧ t.nbits = s.nbits ∧ t.tmr = s.tmr ∧ t.state = s.state ∧ t.prof = s.prof ∧
    t.synth = s.synth ∧ t.host = s.host ∧ t.build = s.build ∧ t.freeCount = s.freeCount := by
  rcases exec_cases i s with e | e | ⟨c, e⟩ | ⟨q, r, e, -⟩ <;> rw [e] at h <;> cases h <;>
    simp [State.pins, State.mosi]

/-- Settles O23: the frame that all commands share, and what the error and the sequence of the word decide. -/
theorem commandsAtAcceptanceMoveNoPin : Obligations.CommandsAtAcceptanceMoveNoPin := by
  intro w s
  obtain ⟨t, e, hacc⟩ := exec_decodeWord_acceptsAs w s
  obtain ⟨h₁, h₂, h₃, h₄, h₅, h₆, h₇, h₈, h₉, h₁₀⟩ := exec_frame e
  exact ⟨t, e, h₁, h₂, h₃, h₄, h₅, h₆, h₇, h₈, h₉, h₁₀, hacc.reports.of_other, fun h => exec_keeps_sequencer h e⟩

/-- A cycle of a phase keeps `SEQ` and `ROW`, and moves `UPC` only at the end of a `WR` or `WAIT`. -/
theorem phaseCycle_sequencer {s t : State} {ph : Phase} (h : phaseCycle ph s = .next t) :
    t.seq = s.seq ∧ t.row = s.row ∧
      (t.upc = s.upc ∨ (ph = .leh ∨ ph = .wait) ∧ s.tmr = 0 ∧ t.upc = s.upc + 1 ∧ t.phase = Phase.fetch.bits) := by
  cases ph with
  | idle => cases h; exact ⟨rfl, rfl, .inl rfl⟩
  | fetch => rcases runFetch_eq_next h with ⟨_, _, _, rfl⟩ | ⟨_, _, rfl⟩ | ⟨_, rfl⟩ <;> simp
  | setup => rcases runSetup_eq_next h with ⟨_, rfl⟩ | ⟨_, rfl⟩ <;> exact ⟨rfl, rfl, .inl rfl⟩
  | shi => rcases runShi_eq_next h with ⟨_, _, rfl⟩ | ⟨_, rfl⟩ <;> exact ⟨rfl, rfl, .inl rfl⟩
  | slo => rcases runSlo_eq_next h with ⟨_, _, rfl⟩ | ⟨_, _, rfl⟩ | ⟨_, rfl⟩ <;> exact ⟨rfl, rfl, .inl rfl⟩
  | leh =>
    rcases runLeh_eq_next h with ⟨ht, -, rfl⟩ | ⟨-, rfl⟩
    · exact ⟨rfl, rfl, .inr ⟨.inl rfl, ht, rfl, rfl⟩⟩
    · exact ⟨rfl, rfl, .inl rfl⟩
  | wait =>
    rcases runWait_eq_next h with ⟨ht, -, rfl⟩ | ⟨-, rfl⟩
    · exact ⟨rfl, rfl, .inr ⟨.inr rfl, ht, rfl, rfl⟩⟩
    · exact ⟨rfl, rfl, .inl rfl⟩

/-- Settles O32: at an accepting edge by whether the word starts a sequence, at any other by the cycle of the phase. -/
theorem sequencerRegistersMoveByTheirRules : Obligations.SequencerRegistersMoveByTheirRules := by
  intro s t hr h
  rcases step_cases s with ⟨hr', -⟩ | ⟨-, hidle, hvalid, e⟩ | ⟨-, -, e⟩
  · rw [hr] at hr'; cases hr'
  · have haccepts : s.accepts = true := by simp [State.accepts, hr, s.cmdReady_iff.mpr hidle, hvalid]
    obtain ⟨u, hu, hacc⟩ := exec_decodeWord_acceptsAs s.portIn.cmdWord (s.passEdge true)
    rw [e] at h
    obtain rfl : u = t := by simpa [hu] using h
    cases hs : startsSequence s.portIn.cmdWord s.state with
    | none =>
      obtain ⟨hseq, hrow, hupc, -⟩ := exec_keeps_sequencer (s := s.passEdge true) hs hu
      exact ⟨fun hne => by simp [hseq, hrow] at hne, fun hne => absurd hupc hne⟩
    | some qr =>
      obtain rfl := hacc.of_starts _ _ hs
      exact ⟨fun _ => ⟨haccepts, qr.1, qr.2, rfl, rfl, rfl⟩, fun _ => .inl ⟨haccepts, rfl, rfl⟩⟩
  · rw [e] at h
    obtain ⟨ph, hp, hcycle⟩ := runPhase_eq_next h
    obtain ⟨hseq, hrow, hupc⟩ := phaseCycle_sequencer hcycle
    refine ⟨fun hne => by simp [hseq, hrow] at hne, fun hne => .inr ?_⟩
    obtain ⟨hph, hrest⟩ := hupc.resolve_left hne
    exact ⟨hph.imp (by rintro rfl; exact hp) (by rintro rfl; exact hp), hrest⟩

/-! ### The stops -/

theorem endMicroOp_eq_fault {s : State} {f : Fault} :
    endMicroOp s = .fault f ↔ f = .counterWrap ∧ s.upc = 15#4 := by
  unfold endMicroOp
  split <;> simp [*, eq_comm (b := f)]

/-- Where a cycle of a phase stops. -/
theorem phaseCycle_eq_fault {s : State} {ph : Phase} {f : Fault} : phaseCycle ph s = .fault f ↔
    (f = .noMicroOp ∧ ph = .fetch ∧ s.microOp = none) ∨
    (f = .counterWrap ∧ s.tmr = 0 ∧
      ((ph = .shi ∧ s.nbits = 0#6) ∨ ((ph = .leh ∨ ph = .wait) ∧ s.upc = 15#4))) := by
  cases ph with
  | idle => simp [phaseCycle]
  | fetch =>
    simp only [phaseCycle, runFetch, fetchWr, fetchWait, show microOpAt s.params s.seq s.upc = s.microOp from rfl]
    split
    case h_4 => simp [*, eq_comm (b := f)]
    all_goals simp [*]
  | setup => simp only [phaseCycle, runSetup]; split <;> simp
  | shi =>
    simp only [phaseCycle, runShi]
    split
    · split <;> simp [*, eq_comm (b := f)]
    · simp [*]
  | slo =>
    simp only [phaseCycle, runSlo]
    split
    · split <;> simp
    · simp
  | leh =>
    simp only [phaseCycle, runLeh]
    split
    · simp [*, endMicroOp_eq_fault]
    · simp [*]
  | wait =>
    simp only [phaseCycle, runWait]
    split
    · simp [*, endMicroOp_eq_fault]
    · simp [*]

theorem runPhase_of_seven {s : State} (h : s.phase = 7#3) : runPhase s = .fault .unreachablePhase := by
  have : Phase.ofBits 7#3 = none := by decide
  unfold runPhase
  rw [h, this]

/-- Settles O50: neither a reset edge nor an accepting one stops, and a cycle does so by its phase. -/
theorem stopsAreTheUnreachableCases : Obligations.StopsAreTheUnreachableCases := by
  intro s f
  rcases step_cases s with ⟨hr, e⟩ | ⟨-, hidle, -, e⟩ | ⟨hr, -, e⟩ <;> rw [e]
  · simp [resetEdge, hr]
  · obtain ⟨t, ht, -⟩ := exec_decodeWord_acceptsAs s.portIn.cmdWord (s.passEdge true)
    simp [ht, hidle, show Phase.idle.bits ≠ 7#3 by decide]
  · by_cases h7 : s.phase = 7#3
    · have hne : ∀ ph : Phase, 7#3 ≠ ph.bits := fun ph => ph.bits_ne_seven.symm
      rw [runPhase_of_seven (s := s.passEdge false) h7]
      simp [hr, h7, hne, eq_comm (b := f)]
    · obtain ⟨ph, hp⟩ := Phase.exists_of_ne_seven _ h7
      rw [runPhase_of_phase (s := s.passEdge false) hp, phaseCycle_eq_fault]
      have hseven : ph.bits ≠ 7#3 := ph.bits_ne_seven
      simp [hr, hp, hseven, State.microOp]

end Sys2Proof.Machine
end

section
/-! SUPPORT. The end of a run (R149). -/

namespace Sys2Proof.Machine

/-! ### The end of a run (R149) -/

theorem HostAct.offered_eq_none_of_quiet {s : State} {a : HostAct} {h : List HostAct} (hs : s.host = a :: h)
    (ha : a.offered = none) : s.portIn.cmdValid = false := by
  cases a with
  | offer w => cases ha
  | edge p =>
    cases hv : p.cmdValid with
    | true => simp [HostAct.offered, hv] at ha
    | false => simp [State.portIn, hs, hv]

theorem State.runOver_iff (s : State) :
    s.runOver = true ↔ s.phase = Phase.idle.bits ∧ ∀ a ∈ s.host, a.offered = none := by
  simp [State.runOver, State.cmdReady_iff, List.all_eq_true]

/-- The acts to come after an edge are among those before it. -/
theorem hostAfter_subset (b : Bool) (h : List HostAct) : hostAfter b h ⊆ h := by
  match h with
  | [] => exact List.Subset.refl _
  | .edge p :: rest => exact List.subset_cons_self _ _
  | .offer w :: rest =>
    cases b
    · exact List.Subset.refl _
    · exact List.subset_cons_self _ _

/-- A host that offers nothing drives `cmd_valid = 0`. -/
theorem State.portIn_cmdValid_of_none {s : State} (h : ∀ a ∈ s.host, a.offered = none) : s.portIn.cmdValid = false := by
  match hs : s.host with
  | [] => simp [State.portIn, hs, PortIn.quiet]
  | a :: rest => exact HostAct.offered_eq_none_of_quiet hs (h a (hs ▸ List.mem_cons_self))

/-- An edge of an idle machine to which nothing is offered passes to the host's next act, or resets. -/
theorem step_of_runOver {s : State} (h : s.runOver = true) :
    (s.portIn.rstN = true ∧ step s = .next (s.passEdge false)) ∨
    (s.portIn.rstN = false ∧ step s = .next (s.cutLatchPulse.resetRegisters.passEdge false)) := by
  obtain ⟨hidle, hnone⟩ := s.runOver_iff.mp h
  rcases step_cases s with ⟨hr, -⟩ | ⟨-, -, hv, -⟩ | ⟨hr, -, e⟩
  · exact .inr ⟨hr, step_of_reset hr⟩
  · rw [State.portIn_cmdValid_of_none hnone] at hv; cases hv
  · exact .inl ⟨hr, e.trans (runPhase_of_phase (s := s.passEdge false) hidle)⟩

theorem State.runOver_passEdge {s : State} (h : s.runOver = true) : (s.passEdge false).runOver = true := by
  obtain ⟨hidle, hnone⟩ := s.runOver_iff.mp h
  exact (State.runOver_iff _).mpr ⟨hidle, fun a ha => hnone a (hostAfter_subset false s.host ha)⟩

/-- A run that is over stays over at every edge. -/
theorem exists_step_of_runOver {s : State} (h : s.runOver = true) : ∃ t, step s = .next t ∧ t.runOver = true := by
  rcases step_of_runOver h with ⟨-, e⟩ | ⟨-, e⟩
  · exact ⟨_, e, State.runOver_passEdge h⟩
  · refine ⟨_, e, State.runOver_passEdge ?_⟩
    exact (State.runOver_iff _).mpr ⟨rfl, by simpa using (s.runOver_iff.mp h).2⟩

theorem runOver_of_step {s t : State} (h : s.runOver = true) (hstep : step s = .next t) : t.runOver = true := by
  obtain ⟨u, hu, hover⟩ := exists_step_of_runOver h
  obtain rfl : u = t := Host.Outcome.next.inj (hu.symm.trans hstep)
  exact hover

/-- Without reset a run that is over only passes through the host's acts. -/
theorem run_of_runOver {n : Nat} {s : State} (h : s.runOver = true) (hr : noReset n s.host = true) :
    Host.Core.run core n s = .next { s with host := hostAfterBusy n s.host } ∧ runTrace n s = [] := by
  induction n generalizing s with
  | zero => exact ⟨rfl, rfl⟩
  | succ n ih =>
    obtain ⟨hrst, hrest⟩ := noReset_succ hr
    have hstep : step s = .next (s.passEdge false) := by
      rcases step_of_runOver h with ⟨-, e⟩ | ⟨hrst', -⟩
      · exact e
      · rw [hrst] at hrst'; cases hrst'
    obtain ⟨hrun, htrace⟩ := ih (State.runOver_passEdge h) hrest
    rw [run_succ n hstep, runTrace_succ n hstep, hrun, htrace, edgeTrace_of_idle (s.runOver_iff.mp h).1]
    exact ⟨rfl, rfl⟩

/-- Settles O53: an idle machine to which nothing is offered only passes through the host's acts. -/
theorem runThatIsOverStaysOver : Obligations.RunThatIsOverStaysOver := by
  refine ⟨State.runOver_iff, fun s h => ⟨?_, exists_step_of_runOver h⟩, fun s n => run_of_runOver,
    fun s t n m o ho hrun hr => ?_⟩
  · simp [State.busy, (s.runOver_iff.mp h).1]
  · obtain ⟨u, hu, hover, rfl⟩ := observeRun_eq_some ho
    obtain rfl : u = t := Host.Outcome.next.inj (hu.symm.trans hrun)
    obtain ⟨hrest, htrace⟩ := run_of_runOver hover hr
    have hover' := run_keeps (fun _ _ => runOver_of_step) m hover hrest
    have hrun' := (run_add n m hu).trans hrest
    simp only [observeRun, hrun']
    rw [if_pos hover', runTrace_add n m hu, htrace, List.append_nil]
    rfl

end Sys2Proof.Machine
end

section
/-! SUPPORT. Micro-ops and commands as a whole: the exact state after each of them (R96, R101, R104, R107). -/

namespace Sys2Proof.Machine

/-! ### Whole micro-ops -/

/-- Settles O34: the frame runs cycle by cycle to the fall of `spi_le`. -/
theorem writeSendsItsWord : Obligations.WriteSendsItsWord := fun _ _ _ hph hop hsclk hle hupc hr =>
  run_wr hph hop hsclk hle hr hupc

/-- In every cycle of a `WAIT`, from its FETCH cycle to its end, the pins are as they were. -/
theorem run_wait_pins {s : State} {d j : Nat} (hph : s.phase = Phase.fetch.bits) (hop : s.microOp = some (.wait d))
    (hupc : s.upc ≠ 15#4) (hr : noReset (waitCycles s.params d) s.host = true) (hj : j ≤ waitCycles s.params d) :
    ∃ a, Host.Core.run core j s = .next a ∧ a.pins = s.pins := by
  rcases Nat.eq_zero_or_pos j with rfl | hpos
  · exact ⟨s, rfl, rfl⟩
  rcases Nat.lt_or_eq_of_le hj with hlt | rfl
  · obtain ⟨i, rfl⟩ := Nat.exists_eq_add_of_le hpos
    have hi : i ≤ d * s.params.cycPerUs - 1 := by unfold waitCycles at hlt; omega
    have hspan : 1 + i ≤ waitCycles s.params d := hlt.le
    have hticks := run_ticks i (s := s.waitingAt (d * s.params.cycPerUs - 1) 1) (ph := .wait) rfl rfl hi
      (noReset_within hr hspan)
    exact ⟨_, (run_add 1 i (run_one (step_fetchWait hph hop hr))).trans hticks, rfl⟩
  · exact ⟨_, run_wait hph hop hr hupc, rfl⟩

/-- Settles O35. -/
theorem waitKeepsThePinsStill : Obligations.WaitKeepsThePinsStill := fun _ _ _ hph hop hupc hr =>
  ⟨run_wait hph hop hr hupc, fun _ => run_wait_pins hph hop hupc hr⟩

/-! ### Whole commands -/

/-- In a FETCH cycle nothing is left of a frame, and the timer is at 0. -/
structure State.FetchClear (s : State) : Prop where
  phase : s.phase = Phase.fetch.bits
  shreg : s.shreg = 0#32
  nbits : s.nbits = 0#6
  tmr : s.tmr = 0

/-- The state `ops` micro-ops after a clear FETCH cycle, but for the sequencer's place, the host and the shadow, is the
state before them. -/
def State.past (s : State) (ops : List MicroOp) : State :=
  { s with
    upc := s.upc + BitVec.ofNat 4 ops.length
    host := hostAfterBusy (opsCycles s.params ops) s.host
    synth := s.synth.receiveAll (ops.flatMap (MicroOp.words s.params s.row)) }

theorem State.past_cons (s : State) (op : MicroOp) (ops : List MicroOp) : (s.past [op]).past ops = s.past (op :: ops) := by
  have hupc : s.upc + BitVec.ofNat 4 1 + BitVec.ofNat 4 ops.length = s.upc + BitVec.ofNat 4 (ops.length + 1) := by
    bv_omega
  simp only [State.past, State.params, List.length_cons, List.length_nil, ← hupc, opsCycles_cons, opsCycles_nil,
    Nat.zero_add, Nat.add_zero, hostAfterBusy_add, List.flatMap_cons, List.flatMap_nil, List.append_nil,
    Synth.receiveAll_append]

theorem State.FetchClear.past {s : State} (h : s.FetchClear) (ops : List MicroOp) : (s.past ops).FetchClear :=
  ⟨h.phase, h.shreg, h.nbits, h.tmr⟩

theorem State.FetchClear.afterMicroOp {s : State} (h : s.FetchClear) {op : MicroOp} (hne : op ≠ .done) :
    s.afterMicroOp op = s.past [op] := by
  obtain ⟨hph, hshreg, hnbits, htmr⟩ := h
  cases op with
  | wr k m =>
    simp only [State.past, hph, hshreg, hnbits, htmr]
    rfl
  | wait t =>
    simp only [State.past, hph, htmr]
    rfl
  | done => exact absurd rfl hne

/-- The micro-ops before `END`, from a clear FETCH cycle. -/
theorem State.FetchClear.afterMicroOps {s : State} (h : s.FetchClear) {ops : List MicroOp} (hne : .done ∉ ops) :
    s.afterMicroOps ops = s.past ops := by
  induction ops generalizing s with
  | nil => simp [State.past, Synth.receiveAll]
  | cons op ops ih =>
    obtain ⟨hop, hne'⟩ : op ≠ .done ∧ .done ∉ ops := by simpa [eq_comm] using hne
    rw [State.afterMicroOps_cons, h.afterMicroOp hop, ih (h.past [op]) hne', State.past_cons]

/-- What a state holds of a frame is lost when a `WR` begins. -/
def State.frameCleared (s : State) : State := { s with shreg := 0, nbits := 0, tmr := 0 }

theorem State.frameCleared_afterMicroOps_wr (s : State) (k : BitVec 4) (m : Modifier) (ops : List MicroOp) :
    s.frameCleared.afterMicroOps (.wr k m :: ops) = s.afterMicroOps (.wr k m :: ops) := rfl

/-- Every list begins with a `WR`. -/
theorem microOps_eq_wr_cons (p : Config.Params) (q : Seq) : ∃ k m ops, microOps p q = .wr k m :: ops := by
  cases q <;> exact ⟨_, _, _, rfl⟩

/-- `END` of each sequence (R95). -/
theorem State.commit_eq {s : State} {q : Seq} (h : s.seq = q.bits) :
    s.commit = { s with
      state := if q = .init then initialized else tuned
      prof := if q = .init then 0#3 else s.row
      phase := Phase.idle.bits } := by
  simp only [State.commit, h, Seq.bits_inj]
  split <;> rfl

/-- The state after the whole of a sequence (R95, R97). -/
theorem State.start_afterSequence (s : State) (q : Seq) (r : BitVec 3) :
    (s.start q r).afterSequence q = { s with
      state := if q = .init then initialized else tuned
      prof := if q = .init then 0#3 else r
      row := r, seq := q.bits, upc := BitVec.ofNat 4 ((microOps s.params q).length - 1), phase := Phase.idle.bits
      shreg := 0, nbits := 0, tmr := 0
      host := hostAfterBusy (sequenceDuration s.params q) s.host
      synth := s.synth.receiveAll (frameWords (sequenceTrace s.params r q)) } := by
  obtain ⟨ops, hops, hne⟩ := exists_microOps_eq_append s.params q
  obtain ⟨k, m, rest, hwr⟩ := microOps_eq_wr_cons s.params q
  have hclear : (s.start q r).frameCleared.FetchClear := ⟨rfl, rfl, rfl, rfl⟩
  have hsequence : (s.start q r).afterSequence q =
      (((s.start q r).frameCleared.past ops).passEdge false).commit := by
    rw [State.afterSequence, State.start_params, hwr, ← State.frameCleared_afterMicroOps_wr, ← hwr, hops,
      State.afterMicroOps_append, hclear.afterMicroOps hne]
    rfl
  have hlength : (microOps s.params q).length - 1 = ops.length := by rw [hops]; simp
  have hcycles : sequenceDuration s.params q = opsCycles s.params ops + 1 := by
    rw [← opsCycles_microOps, hops]
    simp [opsCycles, MicroOp.cycles]
  have hwords : frameWords (sequenceTrace s.params r q) = ops.flatMap (MicroOp.words s.params r) := by
    rw [frameWords_sequenceTrace, hops]
    simp [MicroOp.words]
  rw [hsequence, State.commit_eq (q := q) rfl, hlength, hcycles, hwords, hostAfterBusy_add,
    ← BitVec.zero_add (BitVec.ofNat 4 ops.length)]
  rfl

/-- The run of a command that starts a sequence, to the cycle after its end. -/
theorem State.BeginsCommand.run_eq {s : State} {w : Byte} (hb : s.BeginsCommand w) {q : Seq} {r : BitVec 3}
    (h : startsSequence w s.state = some (q, r)) :
    Host.Core.run core (1 + sequenceDuration s.params q) s = .next { s with
      state := if q = .init then initialized else tuned
      prof := if q = .init then 0#3 else r
      row := r, seq := q.bits, upc := BitVec.ofNat 4 ((microOps s.params q).length - 1), phase := Phase.idle.bits
      shreg := 0, nbits := 0, tmr := 0
      host := hostAfterBusy (sequenceDuration s.params q) (hostAfter true s.host)
      synth := s.synth.receiveAll (frameWords (sequenceTrace s.params r q)) } := by
  obtain ⟨-, hrun, -⟩ := hb.run_of_starts h
  rw [commandDuration_of_starts h, State.start_afterSequence] at hrun
  exact hrun

/-- Settles O36. -/
theorem initRunsToInitialized : Obligations.InitRunsToInitialized := by
  intro s w hb hop hs
  have hstarts : startsSequence w s.state = some (.init, 1#3) := by simp [startsSequence, hop, hs]
  exact hb.run_eq hstarts

/-- Settles O37. -/
theorem setfreqRunsToTuned : Obligations.SetfreqRunsToTuned := by
  intro s w hb hop harg hs
  have hstarts : startsSequence w s.state = some (.sf, indexRow (argField w)) := by
    simp [startsSequence, hop, hs, badIndex_of_le harg]
  exact hb.run_eq hstarts

/-- Settles O38. -/
theorem setfreqFcRunsToTuned : Obligations.SetfreqFcRunsToTuned := by
  intro s w hb hop harg hs
  have hstarts : startsSequence w s.state = some (.fc, indexRow (argField w)) := by
    simp [startsSequence, hop, hs, badIndex_of_le harg]
  exact hb.run_eq hstarts

/-- Settles O39. -/
theorem busyForExactlyTheDuration : Obligations.BusyForExactlyTheDuration := by
  refine ⟨fun s w hb => ⟨fun n hn hle => ?running, ?ended⟩, fun p w st => commandDuration_of_none, rfl, rfl, rfl⟩
  case running =>
    cases hs : startsSequence w s.state with
    | none => rw [commandDuration_of_none hs] at hle; omega
    | some qr =>
      obtain ⟨hstep, -, hspan, -⟩ := hb.run_of_starts hs
      obtain ⟨m, rfl⟩ := Nat.exists_eq_add_of_le' hn
      obtain ⟨a, hrun, hbusy, -⟩ := hspan m hle
      exact ⟨a, (run_succ m hstep).trans hrun, hbusy, by simpa [State.busy_eq_not_cmdReady] using hbusy⟩
  case ended =>
    obtain ⟨t, hrun, hbusy⟩ : ∃ t : State, Host.Core.run core (1 + commandDuration s.params w s.state) s = .next t ∧
        t.busy = false := by
      cases hs : startsSequence w s.state with
      | none =>
        obtain ⟨t, hrun, hbusy, -⟩ := hb.run_of_none hs
        exact ⟨t, hrun, hbusy⟩
      | some qr =>
        obtain ⟨-, hrun, -⟩ := hb.run_of_starts hs
        exact ⟨_, hrun, ((s.passEdge true).start_afterSequence_commit qr.1 qr.2).1⟩
    exact ⟨t, hrun, hbusy, by simpa [State.busy_eq_not_cmdReady] using hbusy⟩

end Sys2Proof.Machine
end

section
/-! SUPPORT. What an edge of a running sequence does to the sequencer, the shadow and the trace. -/

namespace Sys2Proof.Machine

/-! ### An edge of a running sequence -/

/-- The running micro-op is of the kind that the phase runs. -/
structure State.OpFits (s : State) : Prop where
  frame_op : s.inFrame = true → ∃ k m, s.microOp = some (.wr k m)
  wait_op : s.phase = Phase.wait.bits → ∃ t, s.microOp = some (.wait t)

theorem State.Inv.opFits {s : State} (h : s.Inv) : s.OpFits :=
  ⟨h.inSequence.frame_op, fun hp => (h.inSequence.wait_op hp).1⟩

/-- In IDLE and FETCH no micro-op runs yet. -/
theorem State.opFits_of_phase {s : State} {ph : Phase} (hp : s.phase = ph.bits) (h : ph = .idle ∨ ph = .fetch) :
    s.OpFits := by
  constructor
  · rw [State.inFrame_eq_of_phase hp]
    rcases h with rfl | rfl <;> nofun
  · rw [hp]
    rcases h with rfl | rfl <;> simp

/-- The items that a micro-op adds to the trace (R97). -/
def MicroOp.items (p : Config.Params) (r : BitVec 3) : MicroOp → List TraceItem
  | .wr k m => [.frame (muxWord p r k m)]
  | .wait t => [.gap t]
  | .done => []

/-- `t` runs the sequence that `s` runs. -/
structure State.SameSequence (s t : State) : Prop where
  busy : t.busy = true
  build : t.build = s.build
  state : t.state = s.state
  seq : t.seq = s.seq
  row : t.row = s.row

/-- An edge within a micro-op, at which no latch pulse begins. -/
structure State.StaysIn (s t : State) : Prop extends s.SameSequence t where
  upc : t.upc = s.upc
  le : t.le = s.le
  regs : t.synth.regs = s.synth.regs
  trace : s.edgeTrace = []

/-- The edge at which the latch pulse of a frame begins. -/
structure State.Latches (s t : State) : Prop extends s.SameSequence t where
  phase : s.phase = Phase.slo.bits
  nbits : s.nbits = 0#6
  upc : t.upc = s.upc
  le : t.le = true
  synth : t.synth = if s.le then s.synth else s.synth.commit
  trace : s.edgeTrace = []

/-- The edge that ends the micro-op `op`. -/
structure State.Finishes (s t : State) (op : MicroOp) : Prop extends s.SameSequence t where
  microOp : s.microOp = some op
  not_done : op ≠ .done
  upc : t.upc = s.upc + 1
  synth : t.synth = s.synth
  trace : s.edgeTrace = op.items s.params s.row

/-- Without reset only the last cycle of a `WR` or `WAIT` adds to the trace. -/
theorem edgeTrace_of_running {s : State} (hr : s.portIn.rstN = true)
    (h : ¬ (s.tmr = 0 ∧ (s.phase = Phase.leh.bits ∨ s.phase = Phase.wait.bits))) : s.edgeTrace = [] := by
  simp [State.edgeTrace, h, hr]

/-- The last cycle of a `WR` or `WAIT` adds its items, reset or not. -/
theorem edgeTrace_of_end {s : State} {op : MicroOp} (ht : s.tmr = 0)
    (hp : s.phase = Phase.leh.bits ∨ s.phase = Phase.wait.bits) (hop : s.microOp = some op) :
    s.edgeTrace = op.items s.params s.row := by
  rw [State.edgeTrace, if_pos ⟨ht, hp⟩, hop]
  cases op <;> rfl

section Edge

variable {s t : State} (hfit : s.OpFits) (hb : s.busy = true) (hr : s.portIn.rstN = true) (h : step s = .next t)
include hfit hb hr h

/-- Everything an edge of a running sequence can do without reset: go on within the micro-op, begin its latch pulse, end it,
or commit at `END`. -/
theorem step_running_cases :
    s.StaysIn t ∨ s.Latches t ∨
    (s.phase = Phase.leh.bits ∧ t.le = false ∧ ∃ op, s.Finishes t op) ∨
    (s.phase = Phase.wait.bits ∧ t.le = s.le ∧ ∃ op, s.Finishes t op) ∨
    (s.phase = Phase.fetch.bits ∧ s.microOp = some .done ∧ t = (s.passEdge false).commit ∧ s.edgeTrace = []) := by
  rw [step_of_not_idle hr (by simpa [State.busy] using hb)] at h
  obtain ⟨ph, hp, hcycle⟩ := runPhase_eq_next h
  have hp : s.phase = ph.bits := hp
  have quiet : ph ≠ .leh → ph ≠ .wait → s.edgeTrace = [] := fun hl hw =>
    edgeTrace_of_running hr (by simp [hp, hl, hw])
  have tick : ph ≠ .idle → s.tmr ≠ 0 → t = (s.passEdge false).tick → s.StaysIn t := by
    rintro hi ht rfl
    exact ⟨⟨(State.busy_eq_of_phase hp).trans (decide_eq_true hi), rfl, rfl, rfl, rfl⟩, rfl, rfl, rfl,
      edgeTrace_of_running hr (fun hq => ht hq.1)⟩
  cases ph with
  | idle => simp [State.busy, hp] at hb
  | fetch =>
    rcases runFetch_eq_next hcycle with ⟨k, m, -, rfl⟩ | ⟨n, -, rfl⟩ | ⟨hop, rfl⟩
    · exact .inl ⟨⟨rfl, rfl, rfl, rfl, rfl⟩, rfl, rfl, rfl, quiet (by decide) (by decide)⟩
    · exact .inl ⟨⟨rfl, rfl, rfl, rfl, rfl⟩, rfl, rfl, rfl, quiet (by decide) (by decide)⟩
    · exact .inr (.inr (.inr (.inr ⟨hp, hop, rfl, quiet (by decide) (by decide)⟩)))
  | setup =>
    rcases runSetup_eq_next hcycle with ⟨-, rfl⟩ | ⟨ht, rfl⟩
    · refine .inl ⟨⟨rfl, rfl, rfl, rfl, rfl⟩, rfl, rfl, ?_, quiet (by decide) (by decide)⟩
      rw [State.enter_synth, State.driveSclk_synth]
      split <;> rfl
    · exact .inl (tick (by decide) ht rfl)
  | shi =>
    rcases runShi_eq_next hcycle with ⟨-, -, rfl⟩ | ⟨ht, rfl⟩
    · exact .inl ⟨⟨rfl, rfl, rfl, rfl, rfl⟩, rfl, rfl, rfl, quiet (by decide) (by decide)⟩
    · exact .inl (tick (by decide) ht rfl)
  | slo =>
    rcases runSlo_eq_next hcycle with ⟨-, hn, rfl⟩ | ⟨-, -, rfl⟩ | ⟨ht, rfl⟩
    · refine .inr (.inl ⟨⟨rfl, rfl, rfl, rfl, rfl⟩, hp, hn, rfl, rfl, ?_, quiet (by decide) (by decide)⟩)
      cases hle : s.le <;> simp [hle]
    · refine .inl ⟨⟨rfl, rfl, rfl, rfl, rfl⟩, rfl, rfl, ?_, quiet (by decide) (by decide)⟩
      rw [State.enter_synth, State.driveSclk_synth]
      split <;> rfl
    · exact .inl (tick (by decide) ht rfl)
  | leh =>
    rcases runLeh_eq_next hcycle with ⟨ht, -, rfl⟩ | ⟨ht, rfl⟩
    · obtain ⟨k, m, hop⟩ := hfit.frame_op (by rw [State.inFrame_eq_of_phase hp]; rfl)
      exact .inr (.inr (.inl ⟨hp, rfl, _, ⟨rfl, rfl, rfl, rfl, rfl⟩, hop, by simp, rfl, rfl,
        edgeTrace_of_end ht (.inl hp) hop⟩))
    · exact .inl (tick (by decide) ht rfl)
  | wait =>
    rcases runWait_eq_next hcycle with ⟨ht, -, rfl⟩ | ⟨ht, rfl⟩
    · obtain ⟨n, hop⟩ := hfit.wait_op hp
      exact .inr (.inr (.inr (.inl ⟨hp, rfl, _, ⟨rfl, rfl, rfl, rfl, rfl⟩, hop, by simp, rfl, rfl,
        edgeTrace_of_end ht (.inr hp) hop⟩)))
    · exact .inl (tick (by decide) ht rfl)

/-- An edge of a running sequence keeps the micro-op and the phase fitting. -/
theorem step_opFits : t.OpFits := by
  have frame : s.inFrame = true → ∀ {ph : Phase}, t.phase = ph.bits → ph ≠ .wait → t.microOp = s.microOp → t.OpFits := by
    intro hi ph hp hw hop
    obtain ⟨k, m, hwr⟩ := hfit.frame_op hi
    exact ⟨fun _ => ⟨k, m, hop.trans hwr⟩, fun hp' => absurd (by simpa [hp] using hp') hw⟩
  rw [step_of_not_idle hr (by simpa [State.busy] using hb)] at h
  obtain ⟨ph, hp, hcycle⟩ := runPhase_eq_next h
  have hp : s.phase = ph.bits := hp
  have hi := State.inFrame_eq_of_phase hp
  cases ph with
  | idle => simp [State.busy, hp] at hb
  | fetch =>
    rcases runFetch_eq_next hcycle with ⟨k, m, hop, rfl⟩ | ⟨n, hop, rfl⟩ | ⟨-, rfl⟩
    · exact ⟨fun _ => ⟨k, m, hop⟩, by simp⟩
    · exact ⟨by simp [State.inFrame], fun _ => ⟨n, hop⟩⟩
    · exact State.opFits_of_phase (State.commit_phase _) (.inl rfl)
  | setup =>
    rcases runSetup_eq_next hcycle with ⟨-, rfl⟩ | ⟨-, rfl⟩
    · exact frame hi (ph := .shi) rfl (by decide) rfl
    · exact frame hi (ph := .setup) hp (by decide) rfl
  | shi =>
    rcases runShi_eq_next hcycle with ⟨-, -, rfl⟩ | ⟨-, rfl⟩
    · exact frame hi (ph := .slo) rfl (by decide) rfl
    · exact frame hi hp (by decide) rfl
  | slo =>
    rcases runSlo_eq_next hcycle with ⟨-, -, rfl⟩ | ⟨-, -, rfl⟩ | ⟨-, rfl⟩
    · exact frame hi (ph := .leh) rfl (by decide) rfl
    · exact frame hi (ph := .shi) rfl (by decide) rfl
    · exact frame hi hp (by decide) rfl
  | leh =>
    rcases runLeh_eq_next hcycle with ⟨-, -, rfl⟩ | ⟨-, rfl⟩
    · exact State.opFits_of_phase (ph := .fetch) rfl (.inr rfl)
    · exact frame hi hp (by decide) rfl
  | wait =>
    rcases runWait_eq_next hcycle with ⟨-, -, rfl⟩ | ⟨-, rfl⟩
    · exact State.opFits_of_phase (ph := .fetch) rfl (.inr rfl)
    · exact ⟨hfit.frame_op, hfit.wait_op⟩

end Edge

end Sys2Proof.Machine
end

section
/-! SUPPORT. The trace of a command and the observation of a program (R97, R149). -/

namespace Sys2Proof.Machine

/-! ### The trace that is still to come -/

/-- The items that micro-ops in order add to the trace. -/
def opsItems (p : Config.Params) (r : BitVec 3) (ops : List MicroOp) : List TraceItem := ops.flatMap (MicroOp.items p r)

/-- R97's table is the items of R93's lists. -/
theorem sequenceTrace_eq_opsItems (p : Config.Params) (r : BitVec 3) (q : Seq) :
    sequenceTrace p r q = opsItems p r (microOps p q) := by
  cases q <;> rfl

/-- The micro-ops from `UPC` on. -/
def State.opsLeft (s : State) : List MicroOp :=
  match Seq.ofBits s.seq with
  | some q => (microOps s.params q).drop s.upc.toNat
  | none => []

/-- What the running sequence has yet to add to the trace. -/
def State.itemsLeft (s : State) : List TraceItem := if s.busy then opsItems s.params s.row s.opsLeft else []

theorem State.opsLeft_eq {s : State} {q : Seq} (h : s.seq = q.bits) :
    s.opsLeft = (microOps s.params q).drop s.upc.toNat := by
  simp [State.opsLeft, h]

/-- The micro-op at `UPC` is the first of those left, and those after it are left once `UPC` has moved on. -/
theorem State.opsLeft_eq_cons {s t : State} {op : MicroOp} (hop : s.microOp = some op) (hne : op ≠ .done)
    (hb : t.build = s.build) (hseq : t.seq = s.seq) (hupc : t.upc = s.upc + 1) : s.opsLeft = op :: t.opsLeft := by
  obtain ⟨q, hq, hget⟩ := microOpAt_eq_some hop
  have hadd : t.upc.toNat = s.upc.toNat + 1 := by
    have := (microOpAt_succ_isSome hop hne).1
    rw [hupc]; bv_omega
  have hp : t.params = s.params := congrArg Subtype.val hb
  obtain ⟨hlt, hget⟩ := List.getElem?_eq_some_iff.mp hget
  rw [State.opsLeft_eq hq, State.opsLeft_eq (hseq.trans hq), List.drop_eq_getElem_cons hlt, hget, hadd, hp]

/-- `END` is the last entry of its list. -/
theorem length_of_getElem?_done {p : Config.Params} {q : Seq} {n : Nat} (h : (microOps p q)[n]? = some .done) :
    (microOps p q).length = n + 1 := by
  obtain ⟨ops, hops, hne⟩ := exists_microOps_eq_append p q
  rw [hops] at h ⊢
  have hge : ops.length ≤ n := by
    by_contra hlt
    rw [List.getElem?_append_left (by omega)] at h
    exact hne (List.mem_of_getElem? h)
  have hlt := (List.getElem?_eq_some_iff.mp h).1
  simp only [List.length_append, List.length_singleton] at hlt ⊢
  omega

/-- Nothing is left after `END`. -/
theorem State.opsLeft_of_done {s : State} (hop : s.microOp = some .done) : s.opsLeft = [.done] := by
  obtain ⟨q, hq, hget⟩ := microOpAt_eq_some hop
  obtain ⟨hlt, hdone⟩ := List.getElem?_eq_some_iff.mp hget
  rw [State.opsLeft_eq hq, List.drop_eq_getElem_cons hlt, hdone, ← length_of_getElem?_done hget, List.drop_length]

section Edge

variable {s t : State} (hfit : s.OpFits) (hb : s.busy = true) (hr : s.portIn.rstN = true) (h : step s = .next t)
include hfit hb hr h

/-- What an edge adds to the trace is no longer to come after it. -/
theorem step_itemsLeft : s.itemsLeft = s.edgeTrace ++ t.itemsLeft := by
  have hp : t.params = s.params := congrArg Subtype.val (step_build h)
  have same : s.SameSequence t → t.upc = s.upc → t.itemsLeft = s.itemsLeft := by
    rintro ⟨hbusy, hbuild, -, hseq, hrow⟩ hupc
    simp only [State.itemsLeft, State.opsLeft, hbusy, hb, hseq, hrow, hupc, hp]
  have done : ∀ op, s.Finishes t op → s.itemsLeft = s.edgeTrace ++ t.itemsLeft := by
    rintro op ⟨⟨hbusy, hbuild, -, hseq, hrow⟩, hop, hne, hupc, -, htrace⟩
    simp only [State.itemsLeft, hb, hbusy, if_true, hrow, hp, htrace, opsItems, State.opsLeft_eq_cons hop hne hbuild hseq hupc,
      List.flatMap_cons]
  rcases step_running_cases hfit hb hr h with hs | hl | ⟨-, -, op, hf⟩ | ⟨-, -, op, hf⟩ | ⟨-, hop, rfl, htrace⟩
  · rw [hs.trace, same hs.toSameSequence hs.upc, List.nil_append]
  · rw [hl.trace, same hl.toSameSequence hl.upc, List.nil_append]
  · exact done op hf
  · exact done op hf
  · have hidle : (s.passEdge false).commit.busy = false := by simp [State.busy]
    simp [State.itemsLeft, hb, hidle, htrace, State.opsLeft_of_done hop, opsItems, MicroOp.items]

omit hfit in
/-- An edge of a running sequence passes to the host's next act. -/
theorem step_running_host : t.host = hostAfter false s.host := by
  rw [step_of_not_idle hr (by simpa [State.busy] using hb)] at h
  obtain ⟨ph, -, hcycle⟩ := runPhase_eq_next h
  exact phaseCycle_keeps_host hcycle

end Edge

/-- The trace of a run in which a sequence runs. -/
theorem runTrace_of_running {n : Nat} {s t : State} (hfit : s.OpFits) (hr : noReset n s.host = true)
    (hbusy : ∀ j, j < n → ∃ a : State, Host.Core.run core j s = .next a ∧ a.busy = true)
    (hrun : Host.Core.run core n s = .next t) : s.itemsLeft = runTrace n s ++ t.itemsLeft := by
  induction n generalizing s with
  | zero => cases hrun; rfl
  | succ n ih =>
    obtain ⟨u, hu, hrest⟩ := run_succ_eq_next n hrun
    obtain ⟨hrst, hr'⟩ := noReset_succ hr
    obtain ⟨a, ha, hb⟩ := hbusy 0 (Nat.succ_pos n)
    obtain rfl : s = a := Host.Outcome.next.inj ha
    have hbusy' : ∀ j, j < n → ∃ a : State, Host.Core.run core j u = .next a ∧ a.busy = true := fun j hj => by
      obtain ⟨a, ha, hb⟩ := hbusy (j + 1) (by omega)
      exact ⟨a, (run_succ j hu).symm.trans ha, hb⟩
    rw [step_itemsLeft hfit hb hrst hu, runTrace_succ n hu, List.append_assoc,
      ih (step_opFits hfit hb hrst hu) (by rw [step_running_host hb hrst hu]; exact hr') hbusy' hrest]

theorem State.start_itemsLeft (s : State) (q : Seq) (r : BitVec 3) :
    (s.start q r).itemsLeft = sequenceTrace s.params r q := by
  have hbusy : (s.start q r).busy = true := rfl
  rw [State.itemsLeft, hbusy, if_pos rfl, State.opsLeft_eq (s := s.start q r) rfl, sequenceTrace_eq_opsItems]
  rfl

theorem State.itemsLeft_of_idle {s : State} (h : s.busy = false) : s.itemsLeft = [] := by
  simp [State.itemsLeft, h]

/-- A command that is not reset adds exactly its trace of R97 (R97, R149). -/
theorem State.BeginsCommand.runTrace_eq {s : State} {w : Byte} (hb : s.BeginsCommand w) :
    runTrace (1 + commandDuration s.params w s.state) s = commandTrace s.params w s.state := by
  have hidle := edgeTrace_of_idle hb.idle
  cases hs : startsSequence w s.state with
  | none =>
    obtain ⟨t, hstep, -⟩ := hb.exists_step
    rw [commandDuration_of_none hs, Nat.add_zero, runTrace_succ 0 hstep, hidle, commandTrace, hs]
    rfl
  | some qr =>
    obtain ⟨hstep, hrun, hspan, -⟩ := hb.run_of_starts hs
    have hrun' := (run_add 1 _ (run_one hstep)).symm.trans hrun
    have hover := (s.passEdge true).start_afterSequence_commit qr.1 qr.2
    have htrace := runTrace_of_running (State.opFits_of_phase (ph := .fetch) rfl (.inr rfl)) hb.no_reset
      (fun j hj => (hspan j hj).imp fun a ha => ⟨ha.1, ha.2.1⟩) hrun'
    rw [State.itemsLeft_of_idle hover.1, List.append_nil, State.start_itemsLeft] at htrace
    rw [Nat.add_comm, runTrace_succ _ hstep, hidle, List.nil_append, ← htrace, commandTrace, hs]
    rfl

/-! ### A program -/

/-- The status fields after a command, from its row of R110's table and the error it reports. -/
theorem statusFields_eq_after {w : Byte} {s t : State}
    (hmoved : (t.state, t.prof) = stateAfterCommand w s.state s.prof) (hrep : ReportsError w s t) :
    t.statusFields = s.statusFields.after w := by
  obtain ⟨herror, hclr, hkeep⟩ := hrep
  have hstate := congrArg Prod.fst hmoved
  have hprof := congrArg Prod.snd hmoved
  simp only at hstate hprof
  unfold StatusFields.after State.statusFields
  simp only [hstate, hprof]
  cases he : errorOf w s.state with
  | some c =>
    obtain ⟨herr, hmulti⟩ := herror c he
    by_cases h0 : s.err = 0#3 <;> simp [herr, hmulti, h0]
  | none =>
    by_cases hop : opField w = 4#4
    · obtain ⟨herr, hmulti⟩ := hclr he hop
      simp [herr, hmulti, hop]
    · obtain ⟨herr, hmulti⟩ := hkeep he hop
      simp [herr, hmulti, hop]

/-- An idle machine with low pins whose host offers `ws` one after the other and nothing else. -/
structure State.Awaits (s : State) (ws : List Byte) : Prop where
  idle : s.phase = Phase.idle.bits
  pins_low : s.pins = Pins.quiet
  host : s.host = ws.map .offer

theorem noReset_offers (n : Nat) (ws : List Byte) : noReset n (ws.map .offer) = true := by
  rw [noReset, List.all_eq_true]
  intro a ha
  obtain ⟨w, -, rfl⟩ := List.mem_map.mp (List.mem_of_mem_take ha)
  rfl

theorem hostAfterBusy_offers (n : Nat) (ws : List Byte) : hostAfterBusy n (ws.map .offer) = ws.map .offer := by
  induction n with
  | zero => rfl
  | succ n ih =>
    rw [hostAfterBusy_succ]
    cases ws <;> exact ih

/-- The first word offered begins a command. -/
theorem State.Awaits.beginsCommand {s : State} {w : Byte} {ws : List Byte} (h : s.Awaits (w :: ws)) :
    s.BeginsCommand w where
  port := by simp [State.portIn, h.host]
  idle := h.idle
  pins_low := h.pins_low
  no_reset := by
    rw [h.host]
    exact noReset_offers _ ws

/-- After its first command the machine awaits the other words. -/
theorem State.Awaits.run_first {s : State} {w : Byte} {ws : List Byte} (h : s.Awaits (w :: ws)) :
    ∃ t : State, Host.Core.run core (1 + commandDuration s.params w s.state) s = .next t ∧ t.Awaits ws ∧
      t.params = s.params ∧ t.statusFields = s.statusFields.after w := by
  have hb := h.beginsCommand
  obtain ⟨t, hrun, hbusy, hmoved, herr, hclr, hkeep⟩ := commandsMoveTheStateMachineByTheTable.1 s w hb
  refine ⟨t, hrun, ?_, ?_, statusFields_eq_after hmoved ⟨herr, hclr, hkeep⟩⟩
  · cases hs : startsSequence w s.state with
    | none =>
      rw [commandDuration_of_none hs] at hrun
      obtain ⟨u, hu, -⟩ := hb.exists_step
      obtain rfl : u = t := Host.Outcome.next.inj ((run_one hu).symm.trans hrun)
      rw [step_of_accept hb.port hb.idle] at hu
      obtain ⟨hpins, -, -, -, -, -, -, hhost, -⟩ := exec_frame hu
      obtain ⟨-, -, -, hphase⟩ := exec_keeps_sequencer (s := s.passEdge true) hs hu
      exact ⟨hphase.trans h.idle, hpins.trans h.pins_low, by rw [hhost, State.passEdge_host, h.host]; rfl⟩
    | some qr =>
      rw [commandDuration_of_starts hs, hb.run_eq hs] at hrun
      obtain rfl := Host.Outcome.next.inj hrun
      refine ⟨rfl, ?_, ?_⟩
      · have hsclk : s.sclk = false := congrArg Pins.sclk h.pins_low
        have hle : s.le = false := congrArg Pins.le h.pins_low
        simp [State.pins, State.mosi, Pins.quiet, hsclk, hle]
      · show hostAfterBusy _ (hostAfter true s.host) = _
        rw [h.host]
        exact hostAfterBusy_offers _ ws
  · exact run_keeps (P := fun u => u.params = s.params)
      (fun u v hu hstep => (congrArg Subtype.val (step_build hstep)).trans hu) _ rfl hrun

/-- The observation of a run, from that of its second part. -/
theorem observeRun_add {m n : Nat} {s t : State} (h : Host.Core.run core m s = .next t) {o : Observation}
    (ho : observeRun n t = some o) : observeRun (m + n) s = some ⟨runTrace m s ++ o.trace, o.status⟩ := by
  obtain ⟨u, hu, hover, rfl⟩ := observeRun_eq_some ho
  have hrun := (run_add m n h).trans hu
  simp only [observeRun, hrun]
  rw [if_pos hover, runTrace_add m n h]

/-- The observation of a program, by induction over its words. -/
theorem State.Awaits.observeRun_eq {s : State} {ws : List Byte} (h : s.Awaits ws) :
    observeRun (programDuration s.params ws s.statusFields) s =
      some ⟨programTrace s.params ws s.statusFields, (ws.foldl StatusFields.after s.statusFields).idleWord⟩ := by
  induction ws generalizing s with
  | nil =>
    have hover : s.runOver = true := s.runOver_iff.mpr ⟨h.idle, by simp [h.host]⟩
    have hstatus : s.status = s.statusFields.idleWord := by
      rw [State.status, State.busy_eq_of_phase h.idle]
      rfl
    simp only [programDuration, observeRun, run_zero]
    rw [if_pos hover, hstatus]
    rfl
  | cons w ws ih =>
    obtain ⟨t, hrun, hnext, hparams, hfields⟩ := h.run_first
    have hrest := ih hnext
    rw [hparams, hfields] at hrest
    rw [programDuration, programTrace, List.foldl_cons]
    exact (observeRun_add hrun hrest).trans (by rw [h.beginsCommand.runTrace_eq]; rfl)

/-- Settles O55. -/
theorem observationIsTheConcatenatedTrace : Obligations.ObservationIsTheConcatenatedTrace :=
  ⟨fun _ _ _ n hb hrun => by rw [runTrace_add _ n hrun, hb.runTrace_eq],
    fun _ _ hidle hpins hhost => State.Awaits.observeRun_eq ⟨hidle, hpins, hhost⟩⟩

end Sys2Proof.Machine
end

section
/-! SUPPORT. The shadow's registers along a run: what a latch pulse commits (R83, R84), what SETFREQ leaves alone (R105), and
what INIT wrote into registers 3 to 12 (R113). -/

namespace Sys2Proof.Machine

/-! ### The latch pulse -/

/-- After 32 bits the shadow's shift register is the frame's word, and committing it is receiving the word (R83, R84). -/
theorem State.Sending.commit_eq_receive {s : State} (h : s.Sending 32) :
    s.synth.commit = s.synth.receive s.frameWord := by
  have hshift : s.synth.shift = s.frameWord := BitVec.eq_of_getLsbD_eq fun i hi => h.clocked i hi
  rw [Synth.commit, Synth.receive, ← hshift]

/-- A latch pulse that begins in a state with the invariant commits the word of the running `WR`. -/
theorem State.Latches.synth_eq_receive {s t : State} (h : s.Latches t) (hs : s.Inv) :
    ∃ k m, s.microOp = some (.wr k m) ∧ t.synth = s.synth.receive (muxWord s.params s.row k m) := by
  have hsend : s.Sending 32 := by simpa [h.nbits] using (hs.stands (ph := .slo) h.phase).2
  obtain ⟨k, m, hop⟩ := hsend.op
  have hle : s.le = false := by
    rw [Bool.eq_false_iff, Ne, hs.legal.le_phase, h.phase]
    decide
  have hword : s.frameWord = muxWord s.params s.row k m := by simp [State.frameWord, hop]
  exact ⟨k, m, hop, by rw [h.synth, hle, ← hword, ← hsend.commit_eq_receive]; rfl⟩

/-- `spi_le` rises only where a latch pulse of a running sequence begins. -/
theorem step_latches {s t : State} (hfit : s.OpFits) (h : step s = .next t) (hlow : s.le = false) (hhigh : t.le = true) :
    s.Latches t := by
  have rises : t.le ≠ s.le := by rw [hlow, hhigh]; decide
  rcases step_cases s with ⟨-, e⟩ | ⟨-, -, -, e⟩ | ⟨hr, -, e⟩
  · rw [e] at h
    cases h
    cases hhigh
  · rw [e] at h
    exact absurd (congrArg Pins.le (exec_frame h).1) rises
  · by_cases hidle : s.phase = Phase.idle.bits
    · rw [e, runPhase_of_phase (s := s.passEdge false) hidle] at h
      cases h
      exact absurd rfl rises
    · have hb : s.busy = true := by simpa [State.busy] using hidle
      rcases step_running_cases hfit hb hr h with hstay | hl | ⟨-, hle, -⟩ | ⟨-, hle, -⟩ | ⟨-, -, rfl, -⟩
      · exact absurd hstay.le rises
      · exact hl
      · rw [hhigh] at hle; cases hle
      · exact absurd hle rises
      · exact absurd (State.commit_le _) rises

/-- Settles O48. -/
theorem latchCommitsTheWholeWord : Obligations.LatchCommitsTheWholeWord := by
  intro s t hs h hlow hhigh
  have hl := step_latches hs.opFits h hlow hhigh
  obtain ⟨k, m, hop, hsynth⟩ := hl.synth_eq_receive hs
  exact ⟨hl.nbits, k, m, hop, congrArg Synth.shift hsynth, hsynth⟩

/-! ### SETFREQ -/

/-- SETFREQ writes registers 2, 1 and 0 only, the last with bit 21 cleared (R93). -/
theorem microOps_sf_wr {p : Config.Params} {k : BitVec 4} {m : Modifier} (h : .wr k m ∈ microOps p .sf) :
    k.toNat ≤ 2 ∧ (k.toNat = 0 → m = .clr21) := by
  simp only [microOps, List.mem_cons, MicroOp.wr.injEq, List.not_mem_nil, reduceCtorEq, or_false] at h
  rcases h with ⟨rfl, rfl⟩ | ⟨rfl, rfl⟩ | ⟨rfl, rfl⟩ <;> decide

/-- A word of SETFREQ's frames is for register 0, 1 or 2, and has bit 21 clear if it is for register 0 (R105). -/
def Suppressed (w : Word) : Prop := addressField w ≤ 2 ∧ (addressField w = 0 → w.getLsbD 21 = false)

theorem suppressed_of_mem_sf {p : Config.Params} (hp : p.AddressFields) (r : BitVec 3) {k : BitVec 4} {m : Modifier}
    (h : .wr k m ∈ microOps p .sf) : Suppressed (muxWord p r k m) := by
  obtain ⟨hk, hm⟩ := microOps_sf_wr h
  rw [Suppressed, addressField_muxWord hp r (by omega)]
  refine ⟨hk, fun h0 => ?_⟩
  rw [hm h0, muxWord, modWord, getLsbD_clr21]
  simp

/-- The running micro-op is one of its sequence's list. -/
theorem State.microOp_mem {s : State} {q : Seq} {op : MicroOp} (hseq : s.seq = q.bits) (hop : s.microOp = some op) :
    op ∈ microOps s.params q := by
  rw [State.microOp, hseq, microOpAt_bits] at hop
  exact List.mem_of_getElem? hop

/-- Settles O47: the shadow's registers change only where a latch pulse begins. -/
theorem setfreqSuppressesTheClick : Obligations.SetfreqSuppressesTheClick := by
  intro s t hs hp hb hseq hr h
  have received : s.Latches t → ∃ w, Suppressed w ∧ t.synth = s.synth.receive w := fun hl => by
    obtain ⟨k, m, hop, hsynth⟩ := hl.synth_eq_receive hs
    exact ⟨_, suppressed_of_mem_sf hp s.row (State.microOp_mem hseq hop), hsynth⟩
  refine ⟨fun k hk => ?_, fun hlow hhigh => ?_⟩
  · rcases step_running_cases hs.opFits hb hr h with hstay | hl | ⟨-, -, _, hf⟩ | ⟨-, -, _, hf⟩ | ⟨-, -, rfl, -⟩
    · rw [hstay.regs]
    · obtain ⟨w, ⟨hle, -⟩, hsynth⟩ := received hl
      rw [hsynth, Synth.receive_get, if_neg (by omega)]
    · rw [hf.synth]
    · rw [hf.synth]
    · rw [State.commit_synth]
      rfl
  · obtain ⟨w, ⟨hle, hbit⟩, hsynth⟩ := received (step_latches hs.opFits h hlow hhigh)
    rw [hsynth]
    refine ⟨hle, hbit, fun k hk => ?_⟩
    rw [Synth.receive_get]
    exact if_pos hk.symm

/-! ### Registers 3 to 12 -/

/-- Whether `ShadowHoldsTable` asks for register `k` once the shadow has seen `n` micro-ops of a sequence. -/
def Seq.HoldsAfter (n k : Nat) : Seq → Prop
  | .init => 13 ≤ k + n
  | .sf => True
  | .fc => k ≠ 4 ∨ n < 2 ∨ 6 ≤ n

/-- The clauses of `ShadowHoldsTable` for a running sequence, as one. -/
theorem shadowHoldsTable_iff (s : State) : s.ShadowHoldsTable ↔
    (s.busy = false → s.state ≠ uninit → ∀ k : Fin 13, 3 ≤ k.val → s.HoldsRowOne k) ∧
    (s.busy = true → ∀ q : Seq, s.seq = q.bits →
      ∀ k : Fin 13, 3 ≤ k.val → q.HoldsAfter s.opsSeen k.val → s.HoldsRowOne k) := by
  constructor
  · rintro ⟨hidle, hinit, hsf, hfc⟩
    refine ⟨hidle, fun hb q hq k hk hh => ?_⟩
    cases q with
    | init => exact hinit hb hq k hk hh
    | sf => exact hsf hb hq k hk
    | fc => exact hfc hb hq k hk hh
  · rintro ⟨hidle, hrun⟩
    exact ⟨hidle, fun hb hq => hrun hb .init hq, fun hb hq k hk => hrun hb .sf hq k hk trivial,
      fun hb hq => hrun hb .fc hq⟩

/-- A register that is asked for after a micro-op was written by it with the table's word, or was asked for before it and
is not written by it (R93). -/
theorem Seq.holdsAfter_succ {p : Config.Params} {q : Seq} {n k : Nat} {op : MicroOp}
    (hop : (microOps p q)[n]? = some op) (hk : 3 ≤ k) (h : q.HoldsAfter (n + 1) k) :
    (∃ j, op = .wr j .none ∧ j.toNat = k) ∨ (q.HoldsAfter n k ∧ ∀ j m, op = .wr j m → j.toNat ≠ k) := by
  have hn := (List.getElem?_eq_some_iff.mp hop).1
  have hlen := microOps_length_le p q
  cases q <;> simp only [microOps, List.length_cons, List.length_nil] at hn <;> interval_cases n <;>
    simp only [microOps, List.getElem?_cons_zero, List.getElem?_cons_succ, Option.some.injEq] at hop <;> subst hop <;>
    simp_all [Seq.HoldsAfter] <;> omega

/-- What a micro-op makes of a register that is asked for after it. -/
theorem regAfter_of_holdsAfter (b : Config.Build) (r : BitVec 3) {q : Seq} {n : Nat} {op : MicroOp} {k : Fin 13} {x : Word}
    (hop : (microOps b.val q)[n]? = some op) (hk : 3 ≤ k.val) (h : q.HoldsAfter (n + 1) k.val)
    (hx : q.HoldsAfter n k.val → x = b.val.profile[(1 : Fin 8)][k]) :
    op.regAfter b.val r k x = b.val.profile[(1 : Fin 8)][k] := by
  rcases Seq.holdsAfter_succ hop hk h with ⟨j, rfl, hj⟩ | ⟨hold, hne⟩
  · have hlt : j.toNat < 13 := by omega
    obtain rfl : k = ⟨j.toNat, hlt⟩ := Fin.ext hj.symm
    simp only [MicroOp.regAfter, if_true, muxWord, modWord, profileRead_of_lt _ _ hlt]
    exact b.property.2.2.2.2 r.toFin _ hk
  · cases op with
    | wr j m => exact (if_neg (hne j m rfl)).trans (hx hold)
    | wait t => exact hx hold
    | done => exact hx hold

/-- What a micro-op's words make of a register (R47). -/
theorem Synth.receiveAll_op_get {p : Config.Params} (hp : p.AddressFields) (r : BitVec 3) {q : Seq} {op : MicroOp}
    (hop : op ∈ microOps p q) (y : Synth) (k : Fin 13) :
    (y.receiveAll (op.words p r)).regs[k] = op.regAfter p r k y.regs[k] := by
  have hone := Synth.receiveAll_words_get hp r k (ops := [op]) (by simpa using microOps_inRange p q op hop) y
  simpa using hone

/-- The shadow's table depends on the sequence's place, the registers of the shadow and the build alone. -/
theorem State.ShadowHoldsTable.of_eq {s t : State} (h : s.ShadowHoldsTable) (hb : t.busy = s.busy)
    (hstate : t.state = s.state) (hseq : t.seq = s.seq) (hops : t.opsSeen = s.opsSeen)
    (hregs : t.synth.regs = s.synth.regs) (hbuild : t.build = s.build) : t.ShadowHoldsTable := by
  rw [shadowHoldsTable_iff] at h ⊢
  simp only [State.HoldsRowOne, State.params, hb, hstate, hseq, hops, hregs, hbuild] at h ⊢
  exact h

/-- Before INIT has run nothing is asked of the shadow. -/
theorem shadowHoldsTable_of_uninit {s : State} (hidle : s.phase = Phase.idle.bits) (hs : s.state = uninit) :
    s.ShadowHoldsTable := by
  have hb : s.busy = false := by simp [State.busy, hidle]
  rw [shadowHoldsTable_iff]
  exact ⟨fun _ hne => absurd hs hne, fun hb' => by rw [hb] at hb'; cases hb'⟩

/-- The start of a sequence that `STATE` allows: INIT has written nothing yet, and a switch finds what INIT wrote. -/
theorem State.ShadowHoldsTable.start {s : State} (h : s.ShadowHoldsTable) (hidle : s.busy = false) (hle : s.le = false)
    {q : Seq} {r : BitVec 3} (hq : (q = .init ∧ s.state = uninit ∧ r = 1#3) ∨ (q ≠ .init ∧ s.state ≠ uninit)) :
    (s.start q r).ShadowHoldsTable := by
  rw [shadowHoldsTable_iff]
  have hbusy : (s.start q r).busy = true := rfl
  refine ⟨fun hb => absurd (hbusy.symm.trans hb) (by decide), fun _ q' hq' k hk hh => ?_⟩
  obtain rfl : q = q' := by simpa using hq'
  rcases hq with ⟨rfl, -, -⟩ | ⟨-, hs⟩
  · simp [Seq.HoldsAfter, State.opsSeen, hle] at hh
    omega
  · exact h.idle hidle hs k hk

/-- One more micro-op seen, with its words received. -/
theorem State.ShadowHoldsTable.seeOp {s t : State} (h : s.ShadowHoldsTable) (hp : s.params.AddressFields)
    (hb : s.busy = true) (hsame : s.SameSequence t) {op : MicroOp} (hop : s.microOp = some op) (hlow : s.le = false)
    (hops : t.opsSeen = s.opsSeen + 1) (hsynth : t.synth = s.synth.receiveAll (op.words s.params s.row)) :
    t.ShadowHoldsTable := by
  rw [shadowHoldsTable_iff]
  obtain ⟨hbusy, hbuild, -, hseq, -⟩ := hsame
  refine ⟨fun hb' => absurd (hbusy.symm.trans hb') (by decide), fun _ q hq k hk hh => ?_⟩
  have hq := hseq ▸ hq
  have hseen : s.opsSeen = s.upc.toNat := by simp [State.opsSeen, hlow]
  have hget : (microOps s.params q)[s.opsSeen]? = some op := by
    rw [hseen, ← microOpAt_bits, ← hq]
    exact hop
  have hparams : t.params = s.params := congrArg Subtype.val hbuild
  rw [State.HoldsRowOne, hsynth, Synth.receiveAll_op_get hp s.row (State.microOp_mem hq hop), hparams]
  exact regAfter_of_holdsAfter s.build s.row hget hk (hops ▸ hh) fun hold =>
    ((shadowHoldsTable_iff s).mp h).2 hb q hq k hk hold

/-- At `END` every register is asked for. -/
theorem Seq.holdsAfter_end {p : Config.Params} {q : Seq} {n k : Nat} (hop : (microOps p q)[n]? = some .done)
    (hk : 3 ≤ k) : q.HoldsAfter n k := by
  have hlen := length_of_getElem?_done hop
  cases q <;> simp only [microOps, List.length_cons, List.length_nil, Seq.HoldsAfter] at hlen ⊢ <;> omega

/-- `END` leaves in IDLE what the sequence has written. -/
theorem State.ShadowHoldsTable.commit {s : State} (h : s.ShadowHoldsTable) (hb : s.busy = true) (hlow : s.le = false)
    (hop : s.microOp = some .done) : s.commit.ShadowHoldsTable := by
  have hidle : s.commit.busy = false := by simp [State.busy]
  obtain ⟨q, hq, hget⟩ := microOpAt_eq_some hop
  have hseen : s.opsSeen = s.upc.toNat := by simp [State.opsSeen, hlow]
  rw [shadowHoldsTable_iff]
  refine ⟨fun _ _ k hk => ?_, fun hb' => by rw [hidle] at hb'; cases hb'⟩
  have hold := ((shadowHoldsTable_iff s).mp h).2 hb q hq k hk (hseen ▸ Seq.holdsAfter_end hget hk)
  rw [State.HoldsRowOne, State.commit_synth, State.commit_params]
  exact hold

/-- Every edge keeps the shadow's table. -/
theorem step_shadowHoldsTable {s t : State} (hs : s.Inv) (hp : s.params.AddressFields) (h : s.ShadowHoldsTable)
    (hstep : step s = .next t) : t.ShadowHoldsTable := by
  have hle : s.phase ≠ Phase.leh.bits → s.le = false := fun hne => by
    rwa [Bool.eq_false_iff, Ne, hs.legal.le_phase]
  by_cases hr : s.portIn.rstN = false
  · rw [step_of_reset hr] at hstep
    cases hstep
    exact shadowHoldsTable_of_uninit rfl rfl
  have hr : s.portIn.rstN = true := by simpa using hr
  by_cases hidle : s.phase = Phase.idle.bits
  · have hb : s.busy = false := by simp [State.busy, hidle]
    have hlow : s.le = false := hle (by rw [hidle]; decide)
    rcases step_cases s with ⟨hr', -⟩ | ⟨-, -, -, e⟩ | ⟨-, -, e⟩
    · rw [hr] at hr'; cases hr'
    · rw [e] at hstep
      rcases exec_cases (decodeWord s.portIn.cmdWord) (s.passEdge true) with e | e | ⟨c, e⟩ | ⟨q, r, e, hq⟩ <;>
        rw [e] at hstep <;> cases hstep
      · exact h.of_eq rfl rfl rfl rfl rfl rfl
      · exact h.of_eq rfl rfl rfl rfl rfl rfl
      · exact h.of_eq (by simp [State.busy]) (by simp) (by simp) (by simp [State.opsSeen]) (by simp) (by simp)
      · exact (h.of_eq (t := s.passEdge true) rfl rfl rfl rfl rfl rfl).start hb hlow hq
    · rw [e, runPhase_of_phase (s := s.passEdge false) hidle] at hstep
      cases hstep
      exact h.of_eq rfl rfl rfl rfl rfl rfl
  · have hb : s.busy = true := by simpa [State.busy] using hidle
    rcases step_running_cases hs.opFits hb hr hstep with
      hstay | hl | ⟨hph, hlow, op, hf⟩ | ⟨hph, hkeep, op, hf⟩ | ⟨hph, hop, rfl, -⟩
    · have hops : t.opsSeen = s.opsSeen := by rw [State.opsSeen, State.opsSeen, hstay.upc, hstay.le]
      exact h.of_eq (hstay.busy.trans hb.symm) hstay.state hstay.seq hops hstay.regs hstay.build
    · obtain ⟨k, m, hop, hsynth⟩ := hl.synth_eq_receive hs
      have hlow := hle (by rw [hl.phase]; decide)
      have hops : t.opsSeen = s.opsSeen + 1 := by simp [State.opsSeen, hl.upc, hl.le, hlow]
      exact h.seeOp hp hb hl.toSameSequence hop hlow hops hsynth
    · have hhigh : s.le = true := hs.legal.le_phase.mpr hph
      have hupc : t.upc.toNat = s.upc.toNat + 1 := by
        have := (microOpAt_succ_isSome hf.microOp hf.not_done).1
        rw [hf.upc]; bv_omega
      have hops : t.opsSeen = s.opsSeen := by simp [State.opsSeen, hupc, hlow, hhigh]
      exact h.of_eq (hf.busy.trans hb.symm) hf.state hf.seq hops (congrArg Synth.regs hf.synth) hf.build
    · obtain ⟨n, hop⟩ := hs.opFits.wait_op hph
      obtain rfl : op = .wait n := Option.some.inj (hf.microOp.symm.trans hop)
      have hlow := hle (by rw [hph]; decide)
      have hupc : t.upc.toNat = s.upc.toNat + 1 := by
        have := (microOpAt_succ_isSome hf.microOp hf.not_done).1
        rw [hf.upc]; bv_omega
      have hops : t.opsSeen = s.opsSeen + 1 := by simp [State.opsSeen, hupc, hkeep, hlow]
      exact h.seeOp hp hb hf.toSameSequence hop hlow hops hf.synth
    · exact (h.of_eq (t := s.passEdge false) rfl rfl rfl rfl rfl rfl).commit hb (hle (by rw [hph]; decide)) hop

/-- Settles O51. -/
theorem everyStepKeepsTheShadowsTable : Obligations.EveryStepKeepsTheShadowsTable :=
  ⟨fun _ _ hs hp h hstep => step_shadowHoldsTable hs hp h hstep, fun _ hidle hs => shadowHoldsTable_of_uninit hidle hs⟩

/-- Settles O52: the invariants hold at reset and every edge keeps them, and indices from 3 on agree in all rows. -/
theorem noEarlierContentSurvivesInit : Obligations.NoEarlierContentSurvivesInit := by
  intro b h n t hp hrun hidle hne k hk r
  have hkeeps : ∀ s t : State, (s.Inv ∧ s.ShadowHoldsTable ∧ s.build = b) → step s = .next t →
      t.Inv ∧ t.ShadowHoldsTable ∧ t.build = b := by
    rintro s t ⟨hs, htable, rfl⟩ hstep
    exact ⟨everyStepKeepsTheInvariant s t hs hstep, step_shadowHoldsTable hs hp htable hstep, step_build hstep⟩
  obtain ⟨-, htable, rfl⟩ := run_keeps hkeeps n ⟨reset_inv b h, shadowHoldsTable_of_uninit rfl rfl, rfl⟩ hrun
  exact (htable.idle hidle hne k hk).trans (t.build.property.2.2.2.2 r k hk).symm

end Sys2Proof.Machine
end

section
/-! SUPPORT. Several controllers on one serial bus (R129). -/

namespace Sys2Proof.Machine

/-- Where every controller's step answers a next state, so do all of them together. -/
theorem stepAll_of_forall₂ {ss ts : List State} (h : List.Forall₂ (fun s t => step s = .next t) ss ts) :
    stepAll ss = .next ts := by
  induction h with
  | nil => rfl
  | cons hs _ ih => simp only [stepAll, hs, ih]

/-- What a controller overhears reaches no more than the shift register of its shadow. -/
theorem overhear_frame (level : Bool) (s t : State) :
    ({ overhear level s t with synth := t.synth } : State) = t ∧ (overhear level s t).synth.regs = t.synth.regs := by
  unfold overhear
  split <;> exact ⟨rfl, rfl⟩

/-- Settles O49. -/
theorem sharedBusFaultsOnConflict : Obligations.SharedBusFaultsOnConflict := by
  refine ⟨fun ss h => if_pos h, fun ss ts hone hsteps => ?_⟩
  have hall := stepAll_of_forall₂ hsteps
  rw [busStep, if_neg (by omega), hall]
  simp only
  cases (ss.zip ts).find? fun st => sclkRises st.1 st.2 with
  | none => exact ⟨ts, rfl, List.forall₂_same.mpr fun t _ => ⟨rfl, rfl⟩⟩
  | some st =>
    refine ⟨_, rfl, ?_⟩
    clear hone hall
    induction hsteps with
    | nil => exact .nil
    | cons _ _ ih => exact .cons (overhear_frame _ _ _) ih

end Sys2Proof.Machine
end

section
/-! SUPPORT. The frames of a run whose host offers only INIT and SETFREQ (R105). -/

namespace Sys2Proof.Machine

@[simp] theorem frameWords_nil : frameWords [] = [] := rfl

/-! ### The words of INIT's frames -/

/-- INIT writes each register once, from 12 down to 0 (R93). -/
theorem frameWords_init (p : Config.Params) (r : BitVec 3) :
    frameWords (sequenceTrace p r .init) =
      (([12, 11, 10, 9, 8, 7, 6, 5, 4, 3, 2, 1, 0] : List (BitVec 4)).map fun k => muxWord p r k .none) := rfl

/-- One of INIT's words is for each register (R47). -/
theorem frameWords_init_filter {p : Config.Params} (hp : p.AddressFields) (k : Fin 13) :
    (frameWords (sequenceTrace p 1 .init)).filter (fun w => addressField w == k.val) =
      [p.profile[(1 : Fin 8)][k]] := by
  have hfield : ∀ j ∈ ([12, 11, 10, 9, 8, 7, 6, 5, 4, 3, 2, 1, 0] : List (BitVec 4)),
      (addressField (muxWord p 1 j .none) == k.val) = (j.toNat == k.val) := fun j hj => by
    rw [addressField_muxWord hp 1 (by revert j; decide)]
  rw [frameWords_init, List.filter_map]
  simp only [Function.comp_def]
  rw [List.filter_congr hfield]
  fin_cases k <;> rfl

/-- Filtering words for register `k` leaves none of SETFREQ's, from register 3 on. -/
theorem filter_suppressed {ws : List Word} (h : ∀ w ∈ ws, Suppressed w) {k : Nat} (hk : 3 ≤ k) :
    ws.filter (fun w => addressField w == k) = [] :=
  List.filter_eq_nil_iff.mpr fun w hw => by
    have := (h w hw).1
    simp only [beq_iff_eq]
    omega

/-- None of SETFREQ's words is for register 0 with bit 21 set. -/
theorem filter_suppressed_bit {ws : List Word} (h : ∀ w ∈ ws, Suppressed w) :
    ws.filter (fun w => addressField w == 0 && w.getLsbD 21) = [] :=
  List.filter_eq_nil_iff.mpr fun w hw => by
    have := (h w hw).2
    simp only [Bool.and_eq_true, beq_iff_eq, not_and, Bool.not_eq_true]
    exact this

/-! ### What has been sent -/

/-- A host that does not reset and offers only INIT and SETFREQ words. -/
structure ClickFree (h : List HostAct) : Prop where
  running : ∀ a ∈ h, a.keepsRunning = true
  words : ∀ a ∈ h, ∀ w, a.offered = some w → opField w = 1 ∨ opField w = 2

theorem ClickFree.after {h : List HostAct} (hc : ClickFree h) (b : Bool) : ClickFree (hostAfter b h) :=
  ⟨fun a ha => hc.running a (hostAfter_subset b h ha), fun a ha => hc.words a (hostAfter_subset b h ha)⟩

theorem ClickFree.portIn_rstN {s : State} (hc : ClickFree s.host) : s.portIn.rstN = true :=
  s.portIn_rstN_of_head fun p hp => hc.running (.edge p) (List.mem_of_head? hp)

/-- A word on the port is one that the host offers. -/
theorem ClickFree.opField_of_valid {s : State} (hc : ClickFree s.host) (hv : s.portIn.cmdValid = true) :
    opField s.portIn.cmdWord = 1 ∨ opField s.portIn.cmdWord = 2 := by
  unfold State.portIn at hv ⊢
  match hs : s.host with
  | [] => rw [hs] at hv; cases hv
  | .edge p :: rest =>
    simp only [hs] at hv
    exact hc.words (.edge p) (by rw [hs]; exact List.mem_cons_self) _ (if_pos hv)
  | .offer w :: rest => exact hc.words (.offer w) (by rw [hs]; exact List.mem_cons_self) _ rfl

/-- What the words sent before a state say of it: INIT's words are those sent and those to come while `STATE` is UNINIT, and
afterwards only SETFREQ's follow them. -/
structure State.HasSent (s : State) (sent : List Word) : Prop where
  before : s.state = uninit → sent ++ frameWords s.itemsLeft =
    if s.busy then frameWords (sequenceTrace s.params 1 .init) else []
  after : s.state ≠ uninit → (s.busy = true → s.seq = Seq.sf.bits) ∧
    ∃ rest, sent = frameWords (sequenceTrace s.params 1 .init) ++ rest ∧ ∀ w ∈ rest, Suppressed w

/-- What was sent depends on `STATE`, the sequence's place and the build alone. -/
theorem State.HasSent.of_eq {s t : State} {sent : List Word} (h : s.HasSent sent) (hb : t.busy = s.busy)
    (hstate : t.state = s.state) (hseq : t.seq = s.seq) (hp : t.params = s.params) (hleft : t.itemsLeft = s.itemsLeft) :
    t.HasSent sent := by
  obtain ⟨h₁, h₂⟩ := h
  constructor <;> simp only [hb, hstate, hseq, hp, hleft] <;> assumption

theorem startsSequence_ne_fc {w : Byte} {st : BitVec 2} {q : Seq} {r : BitVec 3} (hop : opField w = 1 ∨ opField w = 2)
    (h : startsSequence w st = some (q, r)) : (q = .init ∧ r = 1#3 ∧ st = uninit) ∨ (q = .sf ∧ st ≠ uninit) := by
  unfold startsSequence at h
  rcases hop with hop | hop <;> simp [hop] at h <;> simp_all

/-- An accepting edge sends nothing, and starts what `STATE` allows. -/
theorem State.HasSent.exec {s t : State} {w : Byte} {sent : List Word} (h : s.HasSent sent) (hidle : s.busy = false)
    (hop : opField w = 1 ∨ opField w = 2) (he : exec (decodeWord w) s = .next t) : t.HasSent sent := by
  obtain ⟨u, hu, hacc⟩ := exec_decodeWord_acceptsAs w s
  obtain rfl : u = t := Host.Outcome.next.inj (hu.symm.trans he)
  cases hs : startsSequence w s.state with
  | none =>
    obtain ⟨hbusy, hstate, -, -⟩ := hacc.of_none hs
    obtain ⟨-, -, -, -, -, -, -, -, hbuild, -⟩ := exec_frame he
    obtain ⟨hseq, -⟩ := exec_keeps_sequencer hs he
    exact h.of_eq hbusy hstate hseq (congrArg Subtype.val hbuild)
      ((State.itemsLeft_of_idle (hbusy.trans hidle)).trans (State.itemsLeft_of_idle hidle).symm)
  | some qr =>
    obtain ⟨q, r⟩ := qr
    obtain rfl := hacc.of_starts q r hs
    rcases startsSequence_ne_fc hop hs with ⟨rfl, rfl, hst⟩ | ⟨rfl, hst⟩
    · have hnone : sent = [] := by simpa [hidle, State.itemsLeft_of_idle hidle] using h.before hst
      refine ⟨fun _ => ?_, fun hne => absurd hst hne⟩
      rw [hnone, State.start_itemsLeft]
      rfl
    · exact ⟨fun hst' => absurd hst' hst, fun _ => ⟨fun _ => rfl, (h.after hst).2⟩⟩

/-- An edge of a running sequence sends the frame it ends. -/
theorem State.HasSent.step_running {s t : State} {sent : List Word} (h : s.HasSent sent) (hs : s.Inv)
    (hp : s.params.AddressFields) (hb : s.busy = true) (hr : s.portIn.rstN = true) (hstep : step s = .next t) :
    t.HasSent (sent ++ frameWords s.edgeTrace) := by
  have hleft := congrArg frameWords (step_itemsLeft hs.opFits hb hr hstep)
  have hparams : t.params = s.params := congrArg Subtype.val (step_build hstep)
  rw [frameWords_append] at hleft
  have go : s.SameSequence t → (∀ w ∈ frameWords s.edgeTrace, s.state ≠ uninit → Suppressed w) →
      t.HasSent (sent ++ frameWords s.edgeTrace) := by
    rintro ⟨hbusy, -, hstate, hseq, -⟩ hedge
    refine ⟨fun hst => ?_, fun hst => ?_⟩
    · rw [List.append_assoc, ← hleft, hbusy, hparams]
      exact (h.before (hstate ▸ hst)).trans (if_pos hb)
    · obtain ⟨hsf, rest, rfl, hrest⟩ := h.after (hstate ▸ hst)
      refine ⟨fun _ => hseq.trans (hsf hb), rest ++ frameWords s.edgeTrace, by rw [hparams, List.append_assoc], ?_⟩
      intro w hw
      rcases List.mem_append.mp hw with hw | hw
      · exact hrest w hw
      · exact hedge w hw (hstate ▸ hst)
  have finish : ∀ op, s.Finishes t op → t.HasSent (sent ++ frameWords s.edgeTrace) := fun op hf =>
    go hf.toSameSequence fun w hw hst => by
      have hmem := State.microOp_mem ((h.after hst).1 hb) hf.microOp
      rw [hf.trace] at hw
      cases op with
      | wr k m =>
        obtain rfl := List.mem_singleton.mp hw
        exact suppressed_of_mem_sf hp s.row hmem
      | wait n => cases hw
      | done => cases hw
  rcases step_running_cases hs.opFits hb hr hstep with hstay | hl | ⟨-, -, op, hf⟩ | ⟨-, -, op, hf⟩ | ⟨-, hop, rfl, htrace⟩
  · exact go hstay.toSameSequence (by simp [hstay.trace])
  · exact go hl.toSameSequence (by simp [hl.trace])
  · exact finish op hf
  · exact finish op hf
  · have hne : (s.passEdge false).commit.state ≠ uninit := by
      rw [State.commit_state]
      split <;> decide
    have hidle : (s.passEdge false).commit.busy = false := by simp [State.busy]
    rw [htrace, State.itemsLeft_of_idle hidle, frameWords_nil, List.append_nil] at hleft
    rw [htrace, frameWords_nil, List.append_nil]
    refine ⟨fun hst => absurd hst hne, fun _ => ⟨fun hb' => absurd (hidle.symm.trans hb') (by decide), ?_⟩⟩
    by_cases hst : s.state = uninit
    · have hall := h.before hst
      rw [hleft, if_pos hb, List.append_nil] at hall
      exact ⟨[], by rw [hall, hparams, List.append_nil], by simp⟩
    · rw [hparams]
      exact (h.after hst).2

/-- What holds along a run of the statement. -/
structure ClickFreeRun (b : Config.Build) (s : State) (sent : List Word) : Prop where
  inv : s.Inv
  build : s.build = b
  host : ClickFree s.host
  sent : s.HasSent sent

theorem ClickFreeRun.step {b : Config.Build} (hp : b.val.AddressFields) {s t : State} {sent : List Word}
    (h : ClickFreeRun b s sent) (hstep : step s = .next t) : ClickFreeRun b t (sent ++ frameWords s.edgeTrace) := by
  obtain ⟨hs, rfl, hhost, hsent⟩ := h
  have hr := hhost.portIn_rstN
  have hinv := everyStepKeepsTheInvariant s t hs hstep
  have hbuild := step_build hstep
  by_cases hidle : s.phase = Phase.idle.bits
  · have hb : s.busy = false := by simp [State.busy, hidle]
    rw [edgeTrace_of_idle hidle, frameWords_nil, List.append_nil]
    rcases step_cases s with ⟨hr', -⟩ | ⟨-, -, hv, e⟩ | ⟨-, -, e⟩
    · rw [hr] at hr'; cases hr'
    · rw [e] at hstep
      have hpass : (s.passEdge true).HasSent sent := hsent.of_eq rfl rfl rfl rfl rfl
      exact ⟨hinv, hbuild, by rw [exec_keeps_host hstep]; exact hhost.after true,
        hpass.exec hb (hhost.opField_of_valid hv) hstep⟩
    · rw [e, runPhase_of_phase (s := s.passEdge false) hidle] at hstep
      cases hstep
      exact ⟨hinv, hbuild, hhost.after false, hsent.of_eq rfl rfl rfl rfl rfl⟩
  · have hb : s.busy = true := by simpa [State.busy] using hidle
    exact ⟨hinv, hbuild, by rw [step_running_host hb hr hstep]; exact hhost.after false,
      hsent.step_running hs hp hb hr hstep⟩

theorem ClickFreeRun.run {b : Config.Build} (hp : b.val.AddressFields) {n : Nat} {s t : State} {sent : List Word}
    (h : ClickFreeRun b s sent) (hrun : Host.Core.run core n s = .next t) :
    ClickFreeRun b t (sent ++ frameWords (runTrace n s)) := by
  induction n generalizing s sent with
  | zero =>
    cases hrun
    simpa using h
  | succ n ih =>
    obtain ⟨u, hu, hrest⟩ := run_succ_eq_next n hrun
    rw [runTrace_succ n hu, frameWords_append, ← List.append_assoc]
    exact ih (h.step hp hu) hrest

/-- Settles O54: what was sent is INIT's words and then SETFREQ's, and each index's words are counted in both. -/
theorem clickIsSuppressedOverTheRun : Obligations.ClickIsSuppressedOverTheRun := by
  intro b h n t hp hrunning hwords hrun
  have hstart : ClickFreeRun b { State.reset with build := b, host := h } [] :=
    ⟨reset_inv b h, rfl, ⟨hrunning, hwords⟩, ⟨fun _ => rfl, fun hne => absurd rfl hne⟩⟩
  obtain ⟨-, rfl, -, hsent⟩ := hstart.run hp hrun
  rw [List.nil_append] at hsent
  refine ⟨fun hidle hst => ?_, fun hst => ?_⟩
  · simpa [hidle, State.itemsLeft_of_idle hidle] using hsent.before hst
  · obtain ⟨-, rest, hall, hrest⟩ := hsent.after hst
    simp only [hall]
    refine ⟨⟨rest, rfl, hrest⟩, fun k hk => ?_, ?_⟩
    · rw [List.filter_append, filter_suppressed hrest hk, List.append_nil]
      exact frameWords_init_filter hp k
    · have hzero := frameWords_init_filter hp (0 : Fin 13)
      rw [List.filter_append, filter_suppressed_bit hrest, List.append_nil]
      have hsplit : ∀ ws : List Word, ws.filter (fun w => addressField w == 0 && w.getLsbD 21) =
          (ws.filter fun w => addressField w == (0 : Fin 13).val).filter fun w => w.getLsbD 21 := fun ws => by
        rw [List.filter_filter]
        exact List.filter_congr fun w _ => Bool.and_comm _ _
      rw [hsplit]
      exact (congrArg _ hzero).trans List.filter_cons

end Sys2Proof.Machine
end

section
/-! SUPPORT. The serial pins under the monitor (R76, R97): what it holds in each phase of a sequence, that every edge keeps
it so, reset edges included, and that what it has seen is the run's trace. -/

namespace Sys2Proof.Machine

/-! ### Traces and the frames that show them -/

/-- With a gap of `g` µs asked for, the frames `fs` show the items `tr` and leave a gap of `g'` µs asked for, whatever
follows. -/
def Shows (c g : Nat) (tr : List TraceItem) (fs : List PinFrame) (g' : Nat) : Prop :=
  ∀ rest fs' still, conforms c g' rest fs' still = true → conforms c g (tr ++ rest) (fs ++ fs') still = true

theorem Shows.nil (c g : Nat) : Shows c g [] [] g := fun _ _ _ h => h

theorem Shows.append {c g g' g'' : Nat} {tr tr' : List TraceItem} {fs fs' : List PinFrame} (h : Shows c g tr fs g')
    (h' : Shows c g' tr' fs' g'') : Shows c g (tr ++ tr') (fs ++ fs') g'' := fun rest fs'' still hr => by
  rw [List.append_assoc, List.append_assoc]
  exact h _ _ _ (h' _ _ _ hr)

theorem Shows.gap (c g t : Nat) : Shows c g [.gap t] [] (g + t) := fun _ _ _ h => h

theorem Shows.frame {c g : Nat} {w : Word} {f : PinFrame} (hgap : g * c ≤ f.still) (hbits : f.bits = wireBits w)
    (hle : 3 * c ≤ f.leCycles) : Shows c g [.frame w] [f] 0 := fun _ _ _ h => by
  simpa [conforms, hgap, hbits, hle] using h

theorem Shows.cut {c g : Nat} {bits : List Bool} {latched : Bool} {f : PinFrame} (hgap : g * c ≤ f.still)
    (hbits : f.bits = bits) (hle : f.leCycles < 3 * c) (hlatched : decide (0 < f.leCycles) = latched) :
    Shows c g [.cut bits latched] [f] 0 := fun _ _ _ h => by
  simpa [conforms, hgap, hbits, hle, ← hlatched] using h

/-- A run's frames show its trace where the pins have been still for longer than the gap that is left. -/
theorem Shows.conforms {c g g' still : Nat} {tr : List TraceItem} {fs : List PinFrame} (h : Shows c g tr fs g')
    (hgap : g' * c < still) : conforms c g tr fs still = true := by
  simpa using h [] [] still (decide_eq_true hgap)

/-! ### One look of the monitor -/

theorem Pins.ne_quiet_eq (p : Pins) : (p != Pins.quiet) = (p.sclk || p.mosi || p.le) := by
  obtain ⟨a, b, c⟩ := p
  cases a <;> cases b <;> cases c <;> rfl

/-- The monitor is between frames, and the pins have been still for longer than `g` µs. -/
structure Monitor.Rests (m : Monitor) (c g : Nat) : Prop where
  moved : m.moved = false
  bits : m.bits = []
  leCycles : m.leCycles = 0
  gap : g * c < m.still

/-- A look at which no frame ends. -/
theorem Monitor.see_of_open {m : Monitor} {r : Bool} {p : Pins} (hle : (m.last.le && !p.le) = false)
    (hr : (!r && m.moved) = false) : m.see r p =
      { m with
        last := p
        moved := m.moved || p != Pins.quiet
        still := if m.moved || p != Pins.quiet then m.still else m.still + 1
        bits := if p.sclk && !m.last.sclk then m.bits ++ [p.mosi] else m.bits
        leCycles := if p.le then m.leCycles + 1 else m.leCycles } := by
  rw [Monitor.see, hle, hr]
  rfl

/-- The monitor after one more cycle of quiet pins between frames. -/
def Monitor.restOn (m : Monitor) : Monitor := { m with last := Pins.quiet, still := m.still + 1 }

/-- A look at quiet pins between frames. -/
theorem Monitor.see_of_rest {m : Monitor} {r : Bool} (hle : m.last.le = false) (hm : m.moved = false) :
    m.see r Pins.quiet = m.restOn := by
  rw [Monitor.see_of_open (by simp [hle]) (by simp [hm])]
  simp [hm, Pins.quiet, Monitor.restOn]

@[simp] theorem Monitor.see_last (m : Monitor) (r : Bool) (p : Pins) : (m.see r p).last = p := by
  unfold Monitor.see
  split <;> rfl

/-- The look at which a frame ends. -/
theorem Monitor.see_of_end {m : Monitor} {r : Bool} (h : ((m.last.le && !Pins.quiet.le) || (!r && m.moved)) = true) :
    m.see r Pins.quiet =
      ⟨Pins.quiet, false, 1, [], 0, m.frames ++ [⟨m.still, m.bits, m.leCycles⟩]⟩ := by
  rw [Monitor.see, h]
  rfl

/-! ### What the monitor holds in each phase -/

/-- The monitor has seen what the running `WR` has sent of its frame, after a gap of at least `g` µs. -/
structure State.SendsTo (s : State) (m : Monitor) (g : Nat) : Prop where
  op : ∃ k md, s.microOp = some (.wr k md)
  left_over : s.shreg = s.frameWord <<< (32 - s.nbits.toNat)
  bits : m.bits = (wireBits s.frameWord).take s.bitsClocked
  moved : m.moved = (decide (0 < s.bitsClocked) || s.mosi)
  leCycles : m.leCycles = if s.le then 3 * s.params.cycPerUs - s.tmr else 0
  gap : g * s.params.cycPerUs ≤ m.still

/-- What a phase says of the sequencer and the monitor, with a gap of `g` µs asked for since the last frame. -/
def State.SeenIn (s : State) (m : Monitor) (g : Nat) : Phase → Prop
  | .idle => s.mosi = false ∧ m.Rests s.params.cycPerUs g
  | .fetch => s.mosi = false ∧ m.Rests s.params.cycPerUs g ∧ s.microOp.isSome = true
  | .setup => s.nbits = 32#6 ∧ s.SendsTo m g
  | .shi => 1 ≤ s.nbits.toNat ∧ s.nbits.toNat ≤ 32 ∧ s.SendsTo m g
  | .slo => s.nbits.toNat ≤ 31 ∧ s.SendsTo m g
  | .leh => s.nbits = 0#6 ∧ s.tmr < 3 * s.params.cycPerUs ∧ s.SendsTo m g
  | .wait => s.mosi = false ∧ m.Rests s.params.cycPerUs g ∧
      ∃ t, s.microOp = some (.wait t) ∧ (g + t) * s.params.cycPerUs < m.still + s.tmr

/-- The monitor `m` has followed the pins to the state `s`, in phase `ph`. -/
structure State.Seen (s : State) (m : Monitor) (g : Nat) (ph : Phase) : Prop where
  phase : s.phase = ph.bits
  sclk : s.sclk = decide (ph = .shi)
  le : s.le = decide (ph = .leh)
  last : m.last = s.pins
  seen : s.SeenIn m g ph

variable {s t : State} {m : Monitor} {g : Nat}

/-- The bit on `spi_mosi` is the next one of the word (R41, R80). -/
theorem State.SendsTo.wireBits_getElem? (h : s.SendsTo m g) {j : Nat} (hj : j < 32) (hn : s.nbits.toNat = 32 - j) :
    (wireBits s.frameWord)[j]? = some s.mosi := by
  have hmosi : s.mosi = s.frameWord.getLsbD (31 - j) := by
    rw [State.mosi, h.left_over, BitVec.getLsbD_shiftLeft, hn, show 32 - (32 - j) = j by omega]
    simp only [show (31 : Nat) < 32 by decide, decide_true, Bool.true_and]
    rw [decide_eq_false (by omega)]
    rfl
  rw [hmosi, wireBits, List.getElem?_map, List.getElem?_range hj]
  rfl

/-- An edge within a frame, by what it moves of the frame and the pins. -/
structure State.Advances (s t : State) (m : Monitor) : Prop where
  build : t.build = s.build
  row : t.row = s.row
  seq : t.seq = s.seq
  upc : t.upc = s.upc
  left_over : t.shreg = s.frameWord <<< (32 - t.nbits.toNat)
  /-- No latch pulse ends. -/
  le_on : s.le = true → t.le = true
  /-- A rise of `spi_sclk` clocks one bit. -/
  clocked : t.bitsClocked = s.bitsClocked + if t.sclk && !s.sclk then 1 else 0
  bit : (t.sclk && !s.sclk) = true → (wireBits s.frameWord)[s.bitsClocked]? = some t.mosi
  high : t.sclk = true ∨ t.le = true → 0 < t.bitsClocked
  mosi : s.mosi = true → t.mosi = true ∨ 0 < t.bitsClocked
  /-- The latch pulse is one cycle longer. -/
  pulse : t.le = true → 3 * s.params.cycPerUs - t.tmr = m.leCycles + 1

theorem State.Advances.open (ha : s.Advances t m) (hlast : m.last = s.pins) : (m.last.le && !t.pins.le) = false := by
  rw [hlast]
  cases hs : s.le
  · simp [hs]
  · simp [ha.le_on hs]

/-- A look within a frame loses nothing of what was seen. -/
theorem State.SendsTo.see (h : s.SendsTo m g) (hlast : m.last = s.pins) (ha : s.Advances t m) :
    t.SendsTo (m.see true t.pins) g := by
  have hle := ha.open hlast
  obtain ⟨hb, hrow, hseq, hupc, hleft, hopen, hclocked, hbit, hhigh, hmosi, hpulse⟩ := ha
  have hparams : t.params = s.params := congrArg Subtype.val hb
  have hop : t.microOp = s.microOp := State.microOp_congr hb hseq hupc
  have hword : t.frameWord = s.frameWord := State.frameWord_congr hb hrow hseq hupc
  rw [Monitor.see_of_open hle rfl]
  refine ⟨hop ▸ h.op, hword ▸ hleft, ?bits, ?moved, ?leCycles, ?gap⟩
  case bits =>
    simp only [hlast, State.pins_sclk, State.pins_mosi, hword, h.bits, hclocked]
    split
    · rw [List.take_add_one, hbit (by assumption)]
      rfl
    · rfl
  case moved =>
    have hmore : 0 < s.bitsClocked → 0 < t.bitsClocked := fun hs => by omega
    simp only [h.moved, Pins.ne_quiet_eq, State.pins_sclk, State.pins_mosi, State.pins_le]
    rw [Bool.eq_iff_iff]
    simp only [Bool.or_eq_true, decide_eq_true_eq]
    constructor
    · rintro ((hs | hs) | (hc | hd) | hl)
      · exact .inl (hmore hs)
      · exact (hmosi hs).symm
      · exact .inl (hhigh (.inl hc))
      · exact .inr hd
      · exact .inl (hhigh (.inr hl))
    · rintro (hs | hd)
      · rw [hclocked] at hs
        split at hs
        · next hrise => exact .inr (.inl (.inl (Bool.and_eq_true_iff.mp hrise).1))
        · exact .inl (.inl hs)
      · exact .inr (.inl (.inr hd))
  case leCycles =>
    rw [hparams]
    by_cases htle : t.le = true
    · exact (if_pos htle).trans ((hpulse htle).symm.trans (if_pos htle).symm)
    · have hlow : s.le = false := Bool.eq_false_iff.mpr fun hs => htle (hopen hs)
      have hnone : m.leCycles = 0 := by rw [h.leCycles, hlow, if_neg Bool.false_ne_true]
      exact (if_neg htle).trans (hnone.trans (if_neg htle).symm)
  case gap =>
    simp only [hparams]
    have := h.gap
    split <;> omega

/-! ### Every edge under the monitor -/

/-- After the edge to `t` the monitor has followed the pins, and its new frames show what the edge adds to the trace. -/
structure State.Follows (s : State) (m : Monitor) (g : Nat) (t : State) (m' : Monitor) (fs : List PinFrame) (g' : Nat) :
    Prop where
  seen : ∃ ph, t.Seen m' g' ph
  frames : m'.frames = m.frames ++ fs
  shows : Shows s.params.cycPerUs g s.edgeTrace fs g'

/-- The edge of a state answers a next state, and the monitor follows the pins to it. -/
def State.Followed (s : State) (m : Monitor) (g : Nat) : Prop :=
  ∃ t fs g', step s = .next t ∧ s.Follows m g t (m.see s.portIn.rstN t.pins) fs g'

/-- Looks at quiet pins between frames. -/
theorem State.follows_of_rest (hlast : m.last.le = false) (hm : m.moved = false) (hpins : t.pins = Pins.quiet)
    {r : Bool} {g' : Nat} (hseen : ∃ ph, t.Seen m.restOn g' ph)
    (hshows : Shows s.params.cycPerUs g s.edgeTrace [] g') :
    s.Follows m g t (m.see r t.pins) [] g' := by
  rw [hpins, Monitor.see_of_rest hlast hm]
  exact ⟨hseen, (List.append_nil _).symm, hshows⟩

theorem Monitor.Rests.look {c : Nat} (hm : m.moved = false) (hbits : m.bits = []) (hle : m.leCycles = 0)
    (hgap : g * c ≤ m.still) : m.restOn.Rests c g :=
  ⟨hm, hbits, hle, Nat.lt_succ_of_le hgap⟩

/-- After a reset edge. -/
theorem State.seen_of_reset (s : State) {m : Monitor} (hlast : m.last = Pins.quiet) (hm : m.Rests s.params.cycPerUs g) :
    (s.cutLatchPulse.resetRegisters.passEdge false).Seen m g .idle :=
  ⟨rfl, rfl, rfl, hlast.trans s.cutLatchPulse.resetRegisters_pins.symm, by simp [State.mosi], by simpa using hm⟩

/-- Where the machine is idle with low pins, its edge starts a sequence or leaves it idle. -/
theorem State.followed_of_idle (hph : s.phase = Phase.idle.bits) (hpins : s.pins = Pins.quiet) (hlast : m.last = s.pins)
    (hm : m.moved = false) (hbits : m.bits = []) (hle : m.leCycles = 0) (hgap : g * s.params.cycPerUs ≤ m.still) :
    s.Followed m g := by
  have hrest := Monitor.Rests.look hm hbits hle hgap
  have hlow : m.last.le = false := by rw [hlast, hpins]; rfl
  have hsclk : s.sclk = false := congrArg Pins.sclk hpins
  have hsle : s.le = false := congrArg Pins.le hpins
  have hmosi : s.mosi = false := congrArg Pins.mosi hpins
  have hshows : Shows s.params.cycPerUs g s.edgeTrace [] g := by
    rw [edgeTrace_of_idle hph]
    exact Shows.nil _ _
  rcases step_cases s with ⟨-, e⟩ | ⟨-, -, -, e⟩ | ⟨-, -, e⟩
  · exact ⟨_, [], g, e, State.follows_of_rest (t := s.cutLatchPulse.resetRegisters.passEdge false) hlow hm
      s.cutLatchPulse.resetRegisters_pins ⟨.idle, State.seen_of_reset s rfl hrest⟩
      hshows⟩
  · obtain ⟨t, ht, -⟩ := exec_decodeWord_acceptsAs s.portIn.cmdWord (s.passEdge true)
    obtain ⟨htpins, -, -, -, -, -, -, -, hbuild, -⟩ := exec_frame ht
    have hparams : t.params = s.params := congrArg Subtype.val hbuild
    have hquiet : t.pins = Pins.quiet := htpins.trans hpins
    have htmosi : t.mosi = false := congrArg Pins.mosi hquiet
    refine ⟨t, [], g, e.trans ht, State.follows_of_rest hlow hm hquiet ?_ hshows⟩
    have seen : ∀ ph : Phase, ph = .idle ∨ ph = .fetch → t.phase = ph.bits → t.SeenIn m.restOn g ph →
        ∃ ph, t.Seen m.restOn g ph := by
      rintro ph hph htph hseen
      exact ⟨ph, htph, (congrArg Pins.sclk hquiet).trans (by rcases hph with rfl | rfl <;> rfl),
        (congrArg Pins.le hquiet).trans (by rcases hph with rfl | rfl <;> rfl), hquiet.symm, hseen⟩
    cases hs : startsSequence s.portIn.cmdWord s.state with
    | none =>
      obtain ⟨-, -, -, htph⟩ := exec_keeps_sequencer (s := s.passEdge true) hs ht
      exact seen .idle (.inl rfl) (htph.trans hph) ⟨htmosi, by rw [hparams]; exact hrest⟩
    | some qr =>
      obtain ⟨u, hu, hacc⟩ := exec_decodeWord_acceptsAs s.portIn.cmdWord (s.passEdge true)
      obtain rfl : u = t := Host.Outcome.next.inj (hu.symm.trans ht)
      obtain rfl := hacc.of_starts _ _ hs
      exact seen .fetch (.inr rfl) rfl ⟨htmosi, by rw [hparams]; exact hrest, microOpAt_zero_isSome _ _⟩
  · rw [runPhase_of_phase (s := s.passEdge false) hph] at e
    exact ⟨_, [], g, e, State.follows_of_rest (t := s.passEdge false) hlow hm hpins
      ⟨.idle, hph, hsclk, hsle, hpins.symm, hmosi, hrest⟩ hshows⟩

/-! ### The edges of a frame -/

/-- Bits have been clocked wherever a clock or latch pin is high. -/
theorem State.Seen.bitsClocked_pos {ph : Phase} (h : s.Seen m g ph) (hhigh : s.sclk = true ∨ s.le = true) :
    0 < s.bitsClocked := by
  rw [State.bitsClocked_eq_of_phase h.phase]
  rw [h.sclk, h.le, decide_eq_true_eq, decide_eq_true_eq] at hhigh
  rcases hhigh with rfl | rfl
  · obtain ⟨-, h32, -⟩ := h.seen
    rw [if_pos rfl]
    omega
  · simp [h.seen.1]

/-- An edge within a frame, under the monitor. -/
theorem State.SendsTo.follows (h : s.SendsTo m g) (hlast : m.last = s.pins) (ha : s.Advances t m)
    (hr : s.portIn.rstN = true) (htrace : s.edgeTrace = []) {ph : Phase} (hph : t.phase = ph.bits)
    (hsclk : t.sclk = decide (ph = .shi)) (hle : t.le = decide (ph = .leh))
    (hseen : t.SendsTo (m.see true t.pins) g → t.SeenIn (m.see true t.pins) g ph) :
    s.Follows m g t (m.see s.portIn.rstN t.pins) [] g := by
  rw [hr]
  refine ⟨⟨ph, hph, hsclk, hle, m.see_last _ _, hseen (h.see hlast ha)⟩, ?_, ?_⟩
  · rw [Monitor.see_of_open (ha.open hlast) rfl, List.append_nil]
  · rw [htrace]
    exact Shows.nil _ _

/-- The clock rises on the next bit. -/
theorem State.SendsTo.advances_rise (h : s.SendsTo m g) {ph : Phase} (hph : s.phase = ph.bits) (hshi : ph ≠ .shi)
    (hsclk : s.sclk = false) (hle : s.le = false) (h1 : 1 ≤ s.nbits.toNat) (h32 : s.nbits.toNat ≤ 32) :
    s.Advances (((s.passEdge false).driveSclk true).enter .shi s.params.sclkHalf) m := by
  have hbc : s.bitsClocked = 32 - s.nbits.toNat := by rw [State.bitsClocked_eq_of_phase hph, if_neg hshi]
  set t := ((s.passEdge false).driveSclk true).enter .shi s.params.sclkHalf with ht
  have hn : t.nbits = s.nbits := rfl
  have htbc : t.bitsClocked = 33 - s.nbits.toNat := by
    rw [State.bitsClocked_eq_of_phase (ph := .shi) rfl, if_pos rfl, hn]
  have hrise : (t.sclk && !s.sclk) = true := by rw [hsclk]; rfl
  refine ⟨rfl, rfl, rfl, rfl, h.left_over, fun hs => absurd (hle.symm.trans hs) (by decide), ?_, fun _ => ?_,
    fun _ => by omega, fun hs => .inl hs, fun hs => ?_⟩
  · rw [hrise, hbc, htbc, if_pos rfl]
    omega
  · rw [hbc]
    exact h.wireBits_getElem? (by omega) (by omega)
  · exact absurd (hle.symm.trans hs) (by decide)

/-- The clock falls and the next bit shows. -/
theorem State.SendsTo.advances_fall (h : s.SendsTo m g) (hph : s.phase = Phase.shi.bits) (hle : s.le = false)
    (h1 : 1 ≤ s.nbits.toNat) (h32 : s.nbits.toNat ≤ 32) :
    s.Advances (((s.passEdge false).driveSclk false).shiftOut.enter .slo s.params.sclkHalf) m := by
  have hbc : s.bitsClocked = 33 - s.nbits.toNat := by rw [State.bitsClocked_eq_of_phase (ph := .shi) hph, if_pos rfl]
  set t := ((s.passEdge false).driveSclk false).shiftOut.enter .slo s.params.sclkHalf with ht
  have hn : t.nbits.toNat = s.nbits.toNat - 1 := show (s.nbits - 1).toNat = _ by bv_omega
  have htbc : t.bitsClocked = 33 - s.nbits.toNat := by
    rw [State.bitsClocked_eq_of_phase (ph := .slo) rfl, if_neg (by decide), hn]
    omega
  have hle' : t.le = false := hle
  refine ⟨rfl, rfl, rfl, rfl, ?_, id, ?_, fun hs => ?_, fun _ => by omega, fun _ => .inr (by omega), fun hs => ?_⟩
  · have e : 32 - t.nbits.toNat = 32 - s.nbits.toNat + 1 := by omega
    rw [e, BitVec.shiftLeft_add, ← h.left_over]
    rfl
  · rw [hbc, htbc]
    rfl
  · cases hs
  · rw [hle'] at hs
    cases hs

/-- The latch pulse begins. -/
theorem State.SendsTo.advances_latch (h : s.SendsTo m g) (hph : s.phase = Phase.slo.bits) (hsclk : s.sclk = false)
    (hle : s.le = false) (hn : s.nbits = 0#6) :
    s.Advances (((s.passEdge false).driveLe true).enter .leh (Config.tLeUs * s.params.cycPerUs)) m := by
  have hbc : s.bitsClocked = 32 := by rw [State.bitsClocked_eq_of_phase (ph := .slo) hph, hn]; rfl
  set t := ((s.passEdge false).driveLe true).enter .leh (Config.tLeUs * s.params.cycPerUs) with ht
  have htn : t.nbits = 0#6 := hn
  have htbc : t.bitsClocked = 32 := by rw [State.bitsClocked_eq_of_phase (ph := .leh) rfl, htn]; rfl
  have htsclk : t.sclk = false := hsclk
  refine ⟨rfl, rfl, rfl, rfl, h.left_over, fun _ => rfl, ?_, fun hs => ?_, fun _ => by omega, fun hs => .inl hs,
    fun _ => ?_⟩
  · rw [hbc, htbc, htsclk]
    rfl
  · rw [htsclk] at hs
    cases hs
  · have hpos := s.cycPerUs_pos
    have htmr : t.tmr = 3 * s.params.cycPerUs - 1 := rfl
    rw [htmr, h.leCycles, hle, if_neg Bool.false_ne_true]
    omega

/-- A cycle of a frame's phase that goes on. -/
theorem State.SendsTo.advances_tick {ph : Phase} (hs : s.Seen m g ph) (h : s.SendsTo m g) (ht : s.tmr ≠ 0)
    (hpulse : s.le = true → s.tmr < 3 * s.params.cycPerUs) : s.Advances (s.passEdge false).tick m := by
  refine ⟨rfl, rfl, rfl, rfl, h.left_over, id, ?_, fun hs' => ?_, hs.bitsClocked_pos, .inl, fun hle => ?_⟩
  · show s.bitsClocked = _
    simp
  · simp at hs'
  · have := hpulse hle
    have hle : s.le = true := hle
    have htmr : (s.passEdge false).tick.tmr = s.tmr - 1 := rfl
    rw [htmr, h.leCycles, hle, if_pos rfl]
    omega

end Sys2Proof.Machine
end

section
/-! SUPPORT. The monitor of the serial pins at every edge, reset edges included, and what it has seen of a run (R76, R97,
R138). -/

namespace Sys2Proof.Machine

variable {s t : State} {m : Monitor} {g : Nat}

/-! ### The edges between frames -/

/-- Pins that are low in a phase of neither a clock nor a latch pulse. -/
theorem State.Seen.pins_quiet {ph : Phase} (h : s.Seen m g ph) (hshi : ph ≠ .shi) (hleh : ph ≠ .leh)
    (hmosi : s.mosi = false) : s.pins = Pins.quiet := by
  have hsclk : s.sclk = false := by simpa [hshi] using h.sclk
  have hle : s.le = false := by simpa [hleh] using h.le
  simp [State.pins, Pins.quiet, hsclk, hle, hmosi]

/-- A FETCH loads the word, of which the first bit shows. -/
theorem State.Seen.follows_loadFrame (h : s.Seen m g .fetch) (hr : s.portIn.rstN = true) {k : BitVec 4} {md : Modifier}
    (hop : s.microOp = some (.wr k md)) :
    s.Follows m g (((s.passEdge false).loadFrame (muxWord s.params s.row k md)).enter .setup s.params.sclkHalf)
      (m.see s.portIn.rstN
        (((s.passEdge false).loadFrame (muxWord s.params s.row k md)).enter .setup s.params.sclkHalf).pins) [] g := by
  set t := ((s.passEdge false).loadFrame (muxWord s.params s.row k md)).enter .setup s.params.sclkHalf with ht
  obtain ⟨hmosi, ⟨hm, hbits, hlec, hgap⟩, -⟩ := h.seen
  have hsclk : s.sclk = false := h.sclk
  have hle : s.le = false := h.le
  have hlast : m.last = Pins.quiet := h.last.trans (h.pins_quiet (by decide) (by decide) hmosi)
  have htsclk : t.sclk = false := hsclk
  have htle : t.le = false := hle
  have hword : t.frameWord = muxWord s.params s.row k md := by
    rw [State.frameWord_congr (s := s) (t := t) rfl rfl rfl rfl]
    simp [State.frameWord, hop]
  have hbc : t.bitsClocked = 0 := rfl
  have hopen : (m.last.le && !t.pins.le) = false := by rw [hlast]; rfl
  have htrace : s.edgeTrace = [] := edgeTrace_of_running hr (by simp [h.phase])
  rw [hr, Monitor.see_of_open hopen rfl]
  refine ⟨⟨.setup, rfl, htsclk, htle, rfl, rfl, ⟨k, md, hop⟩, ?_, ?_, ?_, ?_, ?_⟩, (List.append_nil _).symm, ?_⟩
  · rw [hword]
    exact (BitVec.shiftLeft_zero _).symm
  · simp [htsclk, hbits, hbc]
  · simp [hm, Pins.ne_quiet_eq, htsclk, htle, hbc]
  · simp [htle, hlec]
  · show g * s.params.cycPerUs ≤ ite _ _ _
    split <;> omega
  · rw [htrace]
    exact Shows.nil _ _

/-- An edge between frames that keeps the pins low. -/
theorem State.Seen.followed_rest {ph ph' : Phase} {g' : Nat} (h : s.Seen m g ph) (hstep : step s = .next t)
    (hmosi : s.mosi = false) (hm : m.moved = false) (hpins : t.pins = s.pins) (hph : t.phase = ph'.bits)
    (hseen : t.SeenIn m.restOn g' ph') (hshows : Shows s.params.cycPerUs g s.edgeTrace [] g')
    (hlow : ph ≠ .shi ∧ ph ≠ .leh := by decide) (hlow' : ph' ≠ .shi ∧ ph' ≠ .leh := by decide) : s.Followed m g := by
  have hquiet := h.pins_quiet hlow.1 hlow.2 hmosi
  have htquiet : t.pins = Pins.quiet := hpins.trans hquiet
  refine ⟨t, [], g', hstep, State.follows_of_rest (by rw [h.last, hquiet]; rfl) hm htquiet
    ⟨ph', hph, ?_, ?_, htquiet.symm, hseen⟩ hshows⟩
  · exact (congrArg Pins.sclk htquiet).trans (decide_eq_false hlow'.1).symm
  · exact (congrArg Pins.le htquiet).trans (decide_eq_false hlow'.2).symm

/-! ### The ends of a frame -/

/-- In the phases of a frame the monitor has what was sent. -/
theorem State.Seen.sendsTo {ph : Phase} (h : s.Seen m g ph) (hf : s.inFrame = true) : s.SendsTo m g := by
  have hseen := h.seen
  rw [State.inFrame_eq_of_phase h.phase] at hf
  cases ph with
  | idle | fetch | wait => cases hf
  | setup => exact hseen.2
  | shi => exact hseen.2.2
  | slo => exact hseen.2
  | leh => exact hseen.2.2

/-- A latch pulse lasts no more than its 3 µs. -/
theorem State.Seen.tmr_lt {ph : Phase} (h : s.Seen m g ph) (hle : s.le = true) : s.tmr < 3 * s.params.cycPerUs := by
  rw [h.le, decide_eq_true_eq] at hle
  subst hle
  exact h.seen.2.1

theorem wireBits_length (w : Word) : (wireBits w).length = 32 := by simp [wireBits]

/-- In the last cycle of the latch pulse the monitor has the whole frame. -/
theorem State.Seen.shows_frame (h : s.Seen m g .leh) (ht : s.tmr = 0) :
    Shows s.params.cycPerUs g s.edgeTrace [⟨m.still, m.bits, m.leCycles⟩] 0 := by
  obtain ⟨hn, -, hsend⟩ := h.seen
  obtain ⟨k, md, hop⟩ := hsend.op
  have hle : s.le = true := h.le
  have hbc : s.bitsClocked = 32 := by rw [State.bitsClocked_eq_of_phase (ph := .leh) h.phase, hn]; rfl
  have hword : s.frameWord = muxWord s.params s.row k md := by simp [State.frameWord, hop]
  have hbits : m.bits = wireBits (muxWord s.params s.row k md) := by
    rw [hsend.bits, hbc, hword, List.take_of_length_le (wireBits_length _).le]
  have hpulse : m.leCycles = 3 * s.params.cycPerUs := by rw [hsend.leCycles, hle, if_pos rfl, ht, Nat.sub_zero]
  rw [edgeTrace_of_end ht (.inl h.phase) hop]
  exact Shows.frame hsend.gap hbits hpulse.ge

/-- The frame that a reset cuts, after a pin has moved, is what the monitor has of it (R138). -/
theorem State.Seen.shows_cut {ph : Phase} (h : s.Seen m g ph) (hf : s.inFrame = true) (hr : s.portIn.rstN = false)
    (hm : m.moved = true) (hgo : ¬ (s.tmr = 0 ∧ (s.phase = Phase.leh.bits ∨ s.phase = Phase.wait.bits))) :
    Shows s.params.cycPerUs g s.edgeTrace [⟨m.still, m.bits, m.leCycles⟩] 0 := by
  have hsend := h.sendsTo hf
  have hpos := s.cycPerUs_pos
  have hmoved : 0 < s.bitsClocked ∨ s.mosi = true := by simpa [hm] using hsend.moved
  have hcut : s.edgeTrace = [.cut ((wireBits s.frameWord).take s.bitsClocked) s.le] := by
    rw [State.edgeTrace, if_neg hgo, if_pos ⟨hr, hf, hmoved⟩]
  rw [hcut]
  have hlec := hsend.leCycles
  cases hle : s.le with
  | false =>
    rw [hle, if_neg Bool.false_ne_true] at hlec
    exact Shows.cut hsend.gap hsend.bits (by simp only [hlec]; omega) (by simp [hlec])
  | true =>
    have hlt := h.tmr_lt hle
    have hne : s.tmr ≠ 0 := fun h0 => hgo ⟨h0, .inl (by
      have hleh : ph = .leh := by simpa [h.le] using hle
      rw [h.phase, hleh])⟩
    rw [hle, if_pos rfl] at hlec
    exact Shows.cut hsend.gap hsend.bits (by simp only [hlec]; omega) (by simp only [hlec, decide_eq_true_eq]; omega)

/-- The fall of `spi_le` ends a frame, of which the monitor has all. -/
theorem State.Seen.follows_unlatch (h : s.Seen m g .leh) (ht : s.tmr = 0) {r : Bool} :
    s.Follows m g ((s.passEdge false).driveLe false).nextMicroOp
      (m.see r ((s.passEdge false).driveLe false).nextMicroOp.pins) [⟨m.still, m.bits, m.leCycles⟩] 0 := by
  obtain ⟨hn, -, hsend⟩ := h.seen
  obtain ⟨k, md, hop⟩ := hsend.op
  have hle : s.le = true := h.le
  have hshreg : s.shreg = 0#32 := by
    rw [hsend.left_over, hn]
    exact BitVec.shiftLeft_eq_zero le_rfl
  have hmosi : s.mosi = false := by
    rw [State.mosi, hshreg]
    rfl
  have hsclk : s.sclk = false := h.sclk
  have hpins : ((s.passEdge false).driveLe false).nextMicroOp.pins = Pins.quiet :=
    congrArg₂ (fun c d => Pins.mk c d false) hsclk hmosi
  have hend : ((m.last.le && !Pins.quiet.le) || (!r && m.moved)) = true := by
    rw [h.last, State.pins_le, hle]
    rfl
  rw [hpins, Monitor.see_of_end hend]
  have hnext := (microOpAt_succ_isSome hop (by simp)).2
  exact ⟨⟨.fetch, rfl, hsclk, rfl, hpins.symm, hmosi, ⟨rfl, rfl, rfl, by simp⟩, hnext⟩, rfl, h.shows_frame ht⟩

/-! ### Every edge -/

/-- Within a frame, the last cycle of a micro-op is that of the latch pulse. -/
theorem State.Seen.eq_leh {ph : Phase} (h : s.Seen m g ph) (hf : s.inFrame = true)
    (hend : s.phase = Phase.leh.bits ∨ s.phase = Phase.wait.bits) : ph = .leh := by
  rw [State.inFrame_eq_of_phase h.phase] at hf
  rw [h.phase] at hend
  cases ph with
  | leh => rfl
  | idle | fetch | wait => cases hf
  | setup | shi | slo => revert hend; decide

/-- What a reset edge adds to the trace is the frame that the monitor has seen so far. -/
theorem State.Seen.shows_moved {ph : Phase} (h : s.Seen m g ph) (hf : s.inFrame = true) (hr : s.portIn.rstN = false)
    (hm : m.moved = true) : Shows s.params.cycPerUs g s.edgeTrace [⟨m.still, m.bits, m.leCycles⟩] 0 := by
  by_cases hend : s.tmr = 0 ∧ (s.phase = Phase.leh.bits ∨ s.phase = Phase.wait.bits)
  · obtain rfl := h.eq_leh hf hend.2
    exact h.shows_frame hend.1
  · exact h.shows_cut hf hr hm hend

/-- A frame of which no pin has moved adds nothing to the trace. -/
theorem State.Seen.edgeTrace_of_unmoved {ph : Phase} (h : s.Seen m g ph) (hf : s.inFrame = true)
    (hbc : ¬ 0 < s.bitsClocked) (hmosi : s.mosi = false) : s.edgeTrace = [] := by
  have hgo : ¬ (s.phase = Phase.leh.bits ∨ s.phase = Phase.wait.bits) := fun hend => by
    obtain rfl := h.eq_leh hf hend
    exact hbc (h.bitsClocked_pos (.inr h.le))
  rw [State.edgeTrace, if_neg fun hend => hgo hend.2, if_neg (by simp [hbc, hmosi])]

/-- Between frames the monitor rests, and an edge at most ends a gap. -/
theorem State.Seen.rests {ph : Phase} (h : s.Seen m g ph) (hf : ¬ s.inFrame = true) :
    s.le = false ∧ m.Rests s.params.cycPerUs g ∧
      ∃ g', g' * s.params.cycPerUs ≤ m.still ∧ Shows s.params.cycPerUs g s.edgeTrace [] g' := by
  have keeps : m.Rests s.params.cycPerUs g → ¬ (s.tmr = 0 ∧ (s.phase = Phase.leh.bits ∨ s.phase = Phase.wait.bits)) →
      ∃ g', g' * s.params.cycPerUs ≤ m.still ∧ Shows s.params.cycPerUs g s.edgeTrace [] g' := fun hrest hgo =>
    ⟨g, hrest.gap.le, by rw [State.edgeTrace, if_neg hgo, if_neg (by simp [hf])]; exact Shows.nil _ _⟩
  have hseen := h.seen
  have hframe := State.inFrame_eq_of_phase h.phase
  cases ph with
  | setup | shi | slo | leh => exact absurd hframe hf
  | idle => exact ⟨h.le, hseen.2, keeps hseen.2 (by simp [h.phase])⟩
  | fetch => exact ⟨h.le, hseen.2.1, keeps hseen.2.1 (by simp [h.phase])⟩
  | wait =>
    obtain ⟨-, hrest, n, hop, hwait⟩ := hseen
    refine ⟨h.le, hrest, ?_⟩
    by_cases ht : s.tmr = 0
    · refine ⟨g + n, by omega, ?_⟩
      rw [edgeTrace_of_end ht (.inr h.phase) hop]
      exact Shows.gap _ _ _
    · exact keeps hrest fun hend => ht hend.1

/-- A reset edge: a frame that it cuts ends for the monitor too (R138). -/
theorem State.Seen.followed_of_reset {ph : Phase} (h : s.Seen m g ph) (hr : s.portIn.rstN = false) : s.Followed m g := by
  have hlast : m.last.le = s.le := by rw [h.last]; rfl
  have hquiet := s.cutLatchPulse.resetRegisters_pins
  have between : m.moved = false → s.le = false → m.bits = [] → m.leCycles = 0 →
      ∀ g', g' * s.params.cycPerUs ≤ m.still → Shows s.params.cycPerUs g s.edgeTrace [] g' → s.Followed m g :=
    fun hm hle hbits hlec g' hgap hshows => ⟨_, [], g', step_of_reset hr,
      State.follows_of_rest (t := s.cutLatchPulse.resetRegisters.passEdge false) (hlast.trans hle) hm hquiet
        ⟨.idle, State.seen_of_reset s rfl (Monitor.Rests.look hm hbits hlec hgap)⟩ hshows⟩
  by_cases hf : s.inFrame = true
  · have hsend := h.sendsTo hf
    cases hm : m.moved with
    | false =>
      obtain ⟨hbc, hmosi⟩ : ¬ 0 < s.bitsClocked ∧ s.mosi = false := by simpa [hm] using hsend.moved
      have hle : s.le = false := Bool.eq_false_iff.mpr fun hle => hbc (h.bitsClocked_pos (.inr hle))
      have hbits : m.bits = [] := by rw [hsend.bits, Nat.eq_zero_of_not_pos hbc, List.take_zero]
      have hlec : m.leCycles = 0 := by rw [hsend.leCycles, hle, if_neg Bool.false_ne_true]
      exact between hm hle hbits hlec g hsend.gap (h.edgeTrace_of_unmoved hf hbc hmosi ▸ Shows.nil _ _)
    | true =>
      have hend : ((m.last.le && !Pins.quiet.le) || (!s.portIn.rstN && m.moved)) = true := by simp [hr, hm]
      refine ⟨_, [⟨m.still, m.bits, m.leCycles⟩], 0, step_of_reset hr, ?_⟩
      rw [show (s.cutLatchPulse.resetRegisters.passEdge false).pins = Pins.quiet from hquiet, Monitor.see_of_end hend]
      exact ⟨⟨.idle, State.seen_of_reset s rfl ⟨rfl, rfl, rfl, by simp⟩⟩, rfl, h.shows_moved hf hr hm⟩
  · obtain ⟨hle, hrest, g', hgap, hshows⟩ := h.rests hf
    exact between hrest.moved hle hrest.bits hrest.leCycles g' hgap hshows

/-! ### The edges without reset -/

section Running

variable (hr : s.portIn.rstN = true)
include hr

/-- A cycle of a timed phase that goes on. -/
theorem State.Seen.followed_tick {ph : Phase} (h : s.Seen m g ph) (hph : ph.timed = true) (ht : s.tmr ≠ 0) :
    s.Followed m g := by
  have hedge : s.edgeTrace = [] := edgeTrace_of_running hr fun hend => ht hend.1
  have frame : s.SendsTo m g → (∀ m', (s.passEdge false).tick.SendsTo m' g → (s.passEdge false).tick.SeenIn m' g ph) →
      s.Followed m g := fun hsend hseen =>
    ⟨_, [], g, step_tick hr h.phase hph ht, hsend.follows h.last (hsend.advances_tick h ht h.tmr_lt) hr hedge h.phase h.sclk
      h.le (hseen _)⟩
  have hseen := h.seen
  cases ph with
  | idle => cases hph
  | fetch => cases hph
  | setup => exact frame hseen.2 fun _ h' => ⟨hseen.1, h'⟩
  | shi => exact frame hseen.2.2 fun _ h' => ⟨hseen.1, hseen.2.1, h'⟩
  | slo => exact frame hseen.2 fun _ h' => ⟨hseen.1, h'⟩
  | leh => exact frame hseen.2.2 fun _ h' => ⟨hseen.1, (Nat.sub_le _ _).trans_lt hseen.2.1, h'⟩
  | wait =>
    obtain ⟨hmosi, hrest, n, hop, hwait⟩ := hseen
    have hlook := Monitor.Rests.look hrest.moved hrest.bits hrest.leCycles hrest.gap.le
    refine h.followed_rest (ph' := .wait) (step_tick hr h.phase hph ht) hmosi hrest.moved rfl h.phase
      ⟨hmosi, hlook, n, hop, ?_⟩ (hedge ▸ Shows.nil _ _)
    show (g + n) * s.params.cycPerUs < m.still + 1 + (s.tmr - 1)
    omega

/-- The FETCH cycle of each micro-op. -/
theorem State.Seen.followed_fetch (h : s.Seen m g .fetch) : s.Followed m g := by
  obtain ⟨hmosi, hrest, hsome⟩ := h.seen
  have hedge : s.edgeTrace = [] := edgeTrace_of_running hr (by simp [h.phase])
  have hnil : Shows s.params.cycPerUs g s.edgeTrace [] g := hedge ▸ Shows.nil _ _
  have hlook := Monitor.Rests.look hrest.moved hrest.bits hrest.leCycles hrest.gap.le
  obtain ⟨op, hop⟩ := Option.isSome_iff_exists.mp hsome
  have hstep := step_fetch hr h.phase hop
  cases op with
  | wr k md => exact ⟨_, [], g, hstep, h.follows_loadFrame hr hop⟩
  | wait n =>
    refine h.followed_rest (ph' := .wait) hstep hmosi hrest.moved rfl rfl ⟨hmosi, hlook, n, hop, ?_⟩ hnil
    have hgap := hrest.gap
    show (g + n) * s.params.cycPerUs < m.still + 1 + (n * s.params.cycPerUs - 1)
    rw [Nat.add_mul]
    omega
  | done =>
    have hmosi' : (s.passEdge false).commit.mosi = s.mosi := by simp [State.mosi]
    have hpins : (s.passEdge false).commit.pins = s.pins := by simp [State.pins, hmosi']
    exact h.followed_rest (ph' := .idle) hstep hmosi hrest.moved hpins (State.commit_phase _)
      ⟨hmosi'.trans hmosi, by simpa using hlook⟩ hnil

/-- SETUP raises the clock. -/
theorem State.Seen.followed_setup (h : s.Seen m g .setup) (ht : s.tmr = 0) : s.Followed m g := by
  obtain ⟨hn, hsend⟩ := h.seen
  have h32 : s.nbits.toNat = 32 := by rw [hn]; rfl
  have hedge : s.edgeTrace = [] := edgeTrace_of_running hr (by simp [h.phase])
  have hrise := hsend.advances_rise h.phase (by decide) h.sclk h.le (by omega) h32.le
  exact ⟨_, [], g, step_setup hr h.phase ht, hsend.follows (ph := .shi) h.last hrise hr hedge rfl rfl h.le fun hsend' =>
    ⟨h32.ge.trans' (by decide), h32.le, hsend'⟩⟩

/-- SHI lowers the clock. -/
theorem State.Seen.followed_shi (h : s.Seen m g .shi) (ht : s.tmr = 0) : s.Followed m g := by
  obtain ⟨h1, h32, hsend⟩ := h.seen
  have hn : s.nbits ≠ 0#6 := fun hn => by simp [hn] at h1
  have hedge : s.edgeTrace = [] := edgeTrace_of_running hr (by simp [h.phase])
  have hcount : (s.nbits - 1).toNat ≤ 31 := by bv_omega
  have hfall := hsend.advances_fall h.phase h.le h1 h32
  exact ⟨_, [], g, step_shi hr h.phase ht hn, hsend.follows (ph := .slo) h.last hfall hr hedge rfl rfl h.le fun hsend' =>
    ⟨hcount, hsend'⟩⟩

/-- SLO raises the clock or, after the last bit, begins the latch pulse. -/
theorem State.Seen.followed_slo (h : s.Seen m g .slo) (ht : s.tmr = 0) : s.Followed m g := by
  obtain ⟨h31, hsend⟩ := h.seen
  have hedge : s.edgeTrace = [] := edgeTrace_of_running hr (by simp [h.phase])
  by_cases hn : s.nbits = 0#6
  · have hpos := s.cycPerUs_pos
    have hload : 3 * s.params.cycPerUs - 1 < 3 * s.params.cycPerUs := by omega
    have hlatch := hsend.advances_latch h.phase h.sclk h.le hn
    exact ⟨_, [], g, step_slo_last hr h.phase ht hn, hsend.follows (ph := .leh) h.last hlatch hr hedge rfl h.sclk rfl
      fun hsend' => ⟨hn, hload, hsend'⟩⟩
  · have h1 : 1 ≤ s.nbits.toNat := by bv_omega
    have hrise := hsend.advances_rise h.phase (by decide) h.sclk h.le h1 (by omega)
    exact ⟨_, [], g, step_slo_next hr h.phase ht hn, hsend.follows (ph := .shi) h.last hrise hr hedge rfl rfl h.le
      fun hsend' => ⟨h1, h31.trans (by decide), hsend'⟩⟩

/-- LEH ends the frame. -/
theorem State.Seen.followed_leh (h : s.Seen m g .leh) (ht : s.tmr = 0) : s.Followed m g := by
  obtain ⟨-, -, hsend⟩ := h.seen
  obtain ⟨k, md, hop⟩ := hsend.op
  have hupc := (microOpAt_succ_isSome hop (by simp)).1
  exact ⟨_, _, 0, step_leh hr h.phase ht hupc, h.follows_unlatch ht⟩

/-- WAIT ends its gap. -/
theorem State.Seen.followed_wait (h : s.Seen m g .wait) (ht : s.tmr = 0) : s.Followed m g := by
  obtain ⟨hmosi, hrest, n, hop, hwait⟩ := h.seen
  obtain ⟨hupc, hsome⟩ := microOpAt_succ_isSome hop (by simp)
  have hshows : Shows s.params.cycPerUs g s.edgeTrace [] (g + n) := by
    rw [edgeTrace_of_end ht (.inr h.phase) hop]
    exact Shows.gap _ _ _
  rw [ht, Nat.add_zero] at hwait
  exact h.followed_rest (ph' := .fetch) (step_wait hr h.phase ht hupc) hmosi hrest.moved rfl rfl
    ⟨hmosi, Monitor.Rests.look hrest.moved hrest.bits hrest.leCycles hwait.le, hsome⟩ hshows

end Running

/-- The monitor follows every edge. -/
theorem State.Seen.followed {ph : Phase} (h : s.Seen m g ph) : s.Followed m g := by
  by_cases hr : s.portIn.rstN = false
  · exact h.followed_of_reset hr
  have hr : s.portIn.rstN = true := by simpa using hr
  by_cases hgo : ph.timed = true ∧ s.tmr ≠ 0
  · exact h.followed_tick hr hgo.1 hgo.2
  have ht : ph.timed = true → s.tmr = 0 := fun hph => by simpa [hph] using hgo
  cases ph with
  | idle =>
    obtain ⟨hmosi, hm, hbits, hle, hgap⟩ := h.seen
    exact State.followed_of_idle h.phase (h.pins_quiet (by decide) (by decide) hmosi) h.last hm hbits hle hgap.le
  | fetch => exact h.followed_fetch hr
  | setup => exact h.followed_setup hr (ht rfl)
  | shi => exact h.followed_shi hr (ht rfl)
  | slo => exact h.followed_slo hr (ht rfl)
  | leh => exact h.followed_leh hr (ht rfl)
  | wait => exact h.followed_wait hr (ht rfl)

/-! ### Runs under the monitor -/

/-- Over `n` edges from `s` to `t` the monitor follows the pins, and its new frames show the run's trace. -/
structure State.WatchedTo (s : State) (m : Monitor) (g n : Nat) (t : State) (m' : Monitor) (fs : List PinFrame)
    (g' : Nat) : Prop where
  watch : watch n s m = some (t, m')
  run : Host.Core.run core n s = .next t
  params : t.params = s.params
  seen : ∃ ph, t.Seen m' g' ph
  frames : m'.frames = m.frames ++ fs
  shows : Shows s.params.cycPerUs g (runTrace n s) fs g'

/-- One edge more, in front. -/
theorem State.WatchedTo.succ {u : State} {m' : Monitor} {fs fs' : List PinFrame} {n g' g'' : Nat}
    (hstep : step s = .next u) (h : s.Follows m g u (m.see s.portIn.rstN u.pins) fs g')
    (hrest : u.WatchedTo (m.see s.portIn.rstN u.pins) g' n t m' fs' g'') :
    s.WatchedTo m g (n + 1) t m' (fs ++ fs') g'' := by
  obtain ⟨hwatch, hrun, htp, hseen, hframes, hshows⟩ := hrest
  have hparams : u.params = s.params := congrArg Subtype.val (step_build hstep)
  rw [hparams] at hshows
  refine ⟨?_, (run_succ n hstep).trans hrun, htp.trans hparams, hseen, ?_, ?_⟩
  · rw [Machine.watch, hstep]
    exact hwatch
  · rw [hframes, h.frames, List.append_assoc]
  · rw [runTrace_succ n hstep]
    exact h.shows.append hshows

theorem State.Seen.watchedTo {ph : Phase} (n : Nat) (h : s.Seen m g ph) : ∃ t m' fs g', s.WatchedTo m g n t m' fs g' := by
  induction n generalizing s m g ph with
  | zero => exact ⟨s, m, [], g, rfl, rfl, rfl, ⟨ph, h⟩, (List.append_nil _).symm, Shows.nil _ _⟩
  | succ n ih =>
    obtain ⟨u, fs, g', hstep, hfollows⟩ := h.followed
    obtain ⟨ph', hu⟩ := hfollows.seen
    obtain ⟨t, m', fs', g'', hrest⟩ := ih hu
    exact ⟨t, m', fs ++ fs', g'', State.WatchedTo.succ hstep hfollows hrest⟩

/-- From an idle machine with low pins and a monitor between frames. -/
theorem State.watchedTo_of_idle (hph : s.phase = Phase.idle.bits) (hpins : s.pins = Pins.quiet) (hlast : m.last = s.pins)
    (hm : m.moved = false) (hbits : m.bits = []) (hle : m.leCycles = 0) (n : Nat) :
    ∃ t m' fs g', s.WatchedTo m 0 (n + 1) t m' fs g' := by
  obtain ⟨u, fs, g', hstep, hfollows⟩ := State.followed_of_idle (g := 0) hph hpins hlast hm hbits hle (by simp)
  obtain ⟨ph, hu⟩ := hfollows.seen
  obtain ⟨t, m', fs', g'', hrest⟩ := hu.watchedTo n
  exact ⟨t, m', fs ++ fs', g'', State.WatchedTo.succ hstep hfollows hrest⟩

/-- Whenever the machine is idle the monitor is between frames, and what it has seen is the run's trace. -/
theorem State.WatchedTo.of_idle {m' : Monitor} {fs : List PinFrame} {n g' : Nat} (h : s.WatchedTo m g n t m' fs g')
    (hidle : t.busy = false) :
    conforms s.params.cycPerUs g (runTrace n s) fs m'.still = true ∧ m'.last = t.pins ∧ m'.moved = false ∧
      m'.bits = [] ∧ m'.leCycles = 0 := by
  obtain ⟨ph, hseen⟩ := h.seen
  obtain rfl : ph = .idle := by simpa [State.busy_eq_of_phase hseen.phase] using hidle
  obtain ⟨-, hrest⟩ := hseen.seen
  rw [h.params] at hrest
  exact ⟨h.shows.conforms hrest.gap, hseen.last, hrest.moved, hrest.bits, hrest.leCycles⟩

/-- Settles O40: the monitor follows the pins at every edge, and the run's trace is the command's. -/
theorem pinsCarryTheTrace : Obligations.PinsCarryTheTrace := by
  intro s w m hb hlast hm hbits hle
  obtain ⟨t, m', fs, g', hwatched⟩ :=
    State.watchedTo_of_idle hb.idle hb.pins_low hlast hm hbits hle (commandDuration s.params w s.state)
  rw [Nat.add_comm] at hwatched
  obtain ⟨u, hrun, hidle, -⟩ := (busyForExactlyTheDuration.1 s w hb).2
  obtain rfl : u = t := Host.Outcome.next.inj (hrun.symm.trans hwatched.run)
  obtain ⟨hconforms, hrest⟩ := hwatched.of_idle hidle
  rw [hb.runTrace_eq] at hconforms
  exact ⟨u, m', fs, hwatched.watch, hidle, hwatched.frames, hconforms, hrest⟩

/-- An idle machine that meets the invariant has low pins (R37). -/
theorem State.Inv.quiet_of_idle (hinv : s.Inv) (hidle : s.busy = false) :
    s.phase = Phase.idle.bits ∧ s.pins = Pins.quiet := by
  have hphase : s.phase = Phase.idle.bits := by simpa [State.busy] using hidle
  obtain ⟨hshreg, -, -, hsclk, hle⟩ := hinv.legal.idle_quiet hphase
  exact ⟨hphase, by simp [State.pins, State.mosi, Pins.quiet, hshreg, hsclk, hle]⟩

/-- Settles O56: the monitor follows the pins at every edge, one with reset too. -/
theorem pinsCarryTheRunsTrace : Obligations.PinsCarryTheRunsTrace := by
  intro s m n hinv hidle hn hlast hm hbits hle
  obtain ⟨k, rfl⟩ := Nat.exists_eq_add_of_le' hn
  obtain ⟨hphase, hpins⟩ := hinv.quiet_of_idle hidle
  obtain ⟨t, m', fs, g', hwatched⟩ := State.watchedTo_of_idle hphase hpins hlast hm hbits hle k
  exact ⟨t, m', fs, hwatched.watch, hwatched.frames, fun hi => (hwatched.of_idle hi).1⟩

end Sys2Proof.Machine
end
